-- ==== Sys2Proof/Word.lean ====
section
/-! DEFINITION. The word types of the Brielarin T1 model and their plainest arithmetic. -/

namespace Sys2Proof

/-- One byte of a memory, a mailbox payload or a record. -/
abbrev Byte := BitVec 8

/-- One 64-byte line of a frame's payload (R312), byte 0 in the low bits. -/
abbrev Line := BitVec 512

end Sys2Proof
end

