-- ==== Sys2Proof/Syntax.lean ====
section
/-! DEFINITION. The commands the block takes: one constructor of `Instr` for each of the 134 rows of
spec/opcode_table.json. No row gives its operands bits, so the operands are the model's choice (log 4). -/

namespace Sys2Proof

/-- Bytes the host puts into its own memory at a PCIe address before it sends a command (log 5). -/
structure HostWrite where
  addr  : BitVec 64
  bytes : List Byte
  deriving DecidableEq, Repr

/-- One mailbox command as the host sends it (R391 to R394): the header's fields, the payload bytes it
writes into the window, and what it first puts into its own memory. OPCODE is the row's.
`rsv` holds header bits [63:49] (low 15 bits of `rsv`) and [127:64], which R394 has the host write as zero. -/
structure MbReq where
  mailbox : Fin 4
  tag     : BitVec 16
  length  : BitVec 16
  notify  : Bool
  rsv     : BitVec 79
  payload : List Byte
  host    : List HostWrite
  deriving DecidableEq, Repr

/-- A frame as it arrives at a port (R312): header, payload lines, trailer (R314). -/
structure Frame where
  header  : BitVec 256
  lines   : List Line
  trailer : BitVec 128
  deriving DecidableEq, Repr

/-- The levels of the gate tree (R459). -/
inductive GateLevel where
  | die | guild | workshop | loom
  deriving DecidableEq, Repr

/-- The memories a scrubber walks (R250), with the unit's number: channel 0-63, workshop 0-127, guild 0-15. -/
inductive MemUnit where
  | lpddr (channel : Fin 64)
  | scratchpad (workshop : Fin 128)
  | guildStore (guild : Fin 16)
  deriving DecidableEq, Repr

/-- What a host configuration write sets (R433, R436): Bus Master Enable, memory decode, or the
Resizable BAR size as the exponent of its bytes (36 for 64 GiB to 40 for 1 TiB). -/
inductive CfgWrite where
  | busMaster (on : Bool)
  | memDecode (on : Bool)
  | bar2Size (log2 : Nat)
  deriving DecidableEq, Repr

/-- The boundary scan instructions of R511; `other` is any code that names none of them. -/
inductive ScanInstr where
  | bypass | samplePreload | extest | clamp | highz | other
  deriving DecidableEq, Repr

/-- The 134 commands. -/
inductive Instr where
  -- mailbox commands (R403)
  | identify (rq : MbReq)
  | attest (rq : MbReq)
  | lifecycle (rq : MbReq)
  | fwLoad (rq : MbReq)
  | config (rq : MbReq)
  | jobSetup (rq : MbReq)
  | jobAdmit (rq : MbReq)
  | jobEnd (rq : MbReq)
  | jobHold (rq : MbReq)
  | jobResume (rq : MbReq)
  | jobParam (rq : MbReq)
  | sealConfig (rq : MbReq)
  | restoreLocal (rq : MbReq)
  | restorePull (rq : MbReq)
  | pullServe (rq : MbReq)
  | tensorCreate (rq : MbReq)
  | tensorSetFreeze (rq : MbReq)
  | tensorSetUnfreeze (rq : MbReq)
  | tensorSetPinScale (rq : MbReq)
  | tensorSetUnpinScale (rq : MbReq)
  | tensorSetClearHistory (rq : MbReq)
  | tensorSetS (rq : MbReq)
  | optsetWrite (rq : MbReq)
  | pin (rq : MbReq)
  | waybillLoad (rq : MbReq)
  | planLoad (rq : MbReq)
  | stepDispatch (rq : MbReq)
  | groupWrite (rq : MbReq)
  | groupInvalidate (rq : MbReq)
  | routeWrite (rq : MbReq)
  | overrideSet (rq : MbReq)
  | overrideRemove (rq : MbReq)
  | opSet (rq : MbReq)
  | powerCap (rq : MbReq)
  | gateOff (rq : MbReq)
  | gateOn (rq : MbReq)
  | stateRead (rq : MbReq)
  | counterSnapshot (rq : MbReq)
  | traceConfig (rq : MbReq)
  -- registers and windows (R431 to R443, R508)
  | registerWrite (offset : BitVec 16) (wide : Bool) (value : BitVec 64)
  | eqEnableWrite (value : BitVec 64)
  | eqHeadWrite (value : BitVec 32)
  | timebaseLowRead
  | nmiClockClear (value : BitVec 64)
  | traceSlotRead (slot : Fin 64)
  | bar2Read (addr : BitVec 40) (n : Nat)
  | bar2Write (addr : BitVec 40) (bytes : List Byte)
  -- management buses (R510 to R520)
  | smbusBlockRead
  | alertResponseAddress
  | bscanInstructionLoad (ins : ScanInstr)
  -- supplies and resets (R438, R447, R471, R517, R524, R525)
  | powerOn
  | pwrGoodDeassert
  | perstNAssert
  | perstNDeassert
  | modResetNAssert
  | modResetNDeassert
  | hotReset
  | functionLevelReset
  | foremanWatchdog
  | vauxUp (straps : BitVec 6) (vin : BitVec 16)
  | vinOutOfRange (vin : BitVec 16)
  | railFault
  | thermTrip (reading : BitVec 16)
  -- PCIe link and power states (R374, R430)
  | pcieLinkDown
  | d3hotEntry
  | d0Return
  -- clock (R441, R466)
  | clockMonitorWindow (edges : Nat)
  | crystalSilence
  | crystalTimeout
  -- start-up (R439)
  | lpddr6TrainingComplete (failed : BitVec 64)
  | wipeComplete
  | foremanStart
  -- ports and the link layer (R310, R314, R315)
  | portTrainingComplete (port : Fin 24)
  | pcsAlignmentLoss (port : Fin 24)
  | replayLimit (port : Fin 24)
  | frameSend (index : Nat)
  | creditFrameTimer (port : Fin 24)
  -- frames received
  | linkFrame (port : Fin 24) (f : Frame)
  | collFrame (port : Fin 24) (f : Frame)
  | stageQueueDataFrame (port : Fin 24) (f : Frame)
  | creditReturn (port : Fin 24) (f : Frame)
  | voteFrame (port : Fin 24) (f : Frame)
  | tagOnlyFrame (port : Fin 24) (f : Frame)
  | barrierFrame (port : Fin 24) (f : Frame)
  | barrierResend
  | sealPageFrame (port : Fin 24) (f : Frame)
  | sealJournalFrame (port : Fin 24) (f : Frame)
  | sealRecordFrame (port : Fin 24) (f : Frame)
  | sealMarkerFrame (port : Fin 24) (f : Frame)
  | sealAckFrame (port : Fin 24) (f : Frame)
  | sealSecuredFrame (port : Fin 24) (f : Frame)
  | sealCommitFrame (port : Fin 24) (f : Frame)
  | sealDiscardFrame (port : Fin 24) (f : Frame)
  | sealPullFrame (port : Fin 24) (f : Frame)
  | sealPulledFrame (port : Fin 24) (f : Frame)
  | sealReserveFrame (port : Fin 24) (f : Frame)
  -- timeouts (R319, R373, R374)
  | noRouteTimeout (dest : BitVec 16)
  | lostTimeout (peer : BitVec 16)
  | hostTimeout
  -- collectives and stage queues (R326, R335, R341)
  | collectiveStart (op : Nat)
  | collectiveComplete (op : Nat)
  | stageQueueSend (op : Nat)
  -- the step (R412, R418)
  | stepBegin
  | operationStart (op : Nat)
  -- looms and workshops (R51, R100, R101, R112, R176, R184, R188, R191)
  | loomTakeUnit (loom : Fin 512)
  | loadWavefront (loom : Fin 512)
  | shadowSwap (loom : Fin 512)
  | cellHandshake (loom : Fin 512) (row : Fin 64) (col : Fin 64)
  | partialArrival (loom : Fin 512)
  | reclaimWindowExpiry (loom : Fin 512)
  | outputStageConvert (loom : Fin 512)
  | vectorElement (workshop : Fin 128) (lane : Fin 64)
  -- carters (R213, R218, R220, R363)
  | transferIssue (carter : Fin 768) (slot : Fin 4)
  | transferComplete (carter : Fin 768) (index : Nat)
  | streamResume (carter : Fin 768) (slot : Fin 4)
  | circularWaitDetect
  | wpPageCopy (page : Fin 524288)
  -- mills (R271, R272)
  | millPrologue (guild : Fin 16)
  | millRecord (mill : Fin 64)
  -- the boundary, the seal, scrubbing (R133, R250, R357)
  | boundaryWork
  | sealBegin
  | scrubWord (unit : MemUnit)
  -- power, heat, gates (R449, R454, R457, R463, R469, R470)
  | reconciliationWindow (measuredMicroJ : Nat)
  | powerWindow (watts : Nat)
  | vcoreRampComplete
  | thermalSample (readings : List (BitVec 16))
  | thermalStepDown
  | thermalRelease
  | gateCloseComplete (level : GateLevel) (index : Nat)
  | nmiDeferredSignal
  | vinRemoval
  | railsOn
  | pcieLinkUp
  | pcieConfigWrite (w : CfgWrite)
  deriving DecidableEq, Repr

end Sys2Proof
end

