-- ==== Sys2Proof/Machine/Bits.lean ====
section
/-! DEFINITION. Bit fields [msb:lsb], little-endian byte order (R13), and ordered key-value lists: the
plain tools every other file of the model reads and builds records with. -/

namespace Sys2Proof.Machine

/-! ### Bit fields (R13: bit 0 is the least significant, ranges are [msb:lsb]) -/

/-- Field [hi:lo] of a number taken as bits. -/
def natFld (v hi lo : Nat) : Nat := v / 2 ^ lo % 2 ^ (hi + 1 - lo)

/-- Field [hi:lo] of a register or record. -/
def fld {n : Nat} (v : BitVec n) (hi lo : Nat) : Nat := natFld v.toNat hi lo

/-- Bit i of a register or record. -/
def bitOf {n : Nat} (v : BitVec n) (i : Nat) : Bool := v.toNat.testBit i

/-- The number with field [hi:lo] replaced by x (truncated to the field). -/
def natSetFld (v hi lo x : Nat) : Nat :=
  v - natFld v hi lo * 2 ^ lo + x % 2 ^ (hi + 1 - lo) * 2 ^ lo

/-- The record with field [hi:lo] replaced by x (truncated to the field). -/
def setFld {n : Nat} (v : BitVec n) (hi lo x : Nat) : BitVec n :=
  BitVec.ofNat n (natSetFld v.toNat hi lo x)

/-- A record of n bits from its fields (hi, lo, value); every bit not named is 0. -/
def packRec (n : Nat) (fields : List (Nat × Nat × Nat)) : BitVec n :=
  BitVec.ofNat n (fields.foldl (fun acc f => acc + f.2.2 % 2 ^ (f.1 + 1 - f.2.1) * 2 ^ f.2.1) 0)

/-- 1 for true, 0 for false. -/
def bit (b : Bool) : Nat := if b then 1 else 0

/-- A two's complement number of w bits as an integer. -/
def signedOf (w x : Nat) : Int :=
  if x % 2 ^ w < 2 ^ (w - 1) then (x % 2 ^ w : Nat) else (x % 2 ^ w : Nat) - (2 ^ w : Nat)

/-- An integer as a two's complement number of w bits. -/
def unsignedOf (w : Nat) (x : Int) : Nat := (x % (2 ^ w : Nat)).toNat

/-! ### Bytes, little-endian (R13) -/

/-- The value of bytes, least significant first. -/
def natOfBytes : List Byte → Nat
  | [] => 0
  | b :: bs => b.toNat + 256 * natOfBytes bs

/-- The k low bytes of a number, least significant first. -/
def bytesOfNat : (k : Nat) → Nat → List Byte
  | 0, _ => []
  | k + 1, v => BitVec.ofNat 8 v :: bytesOfNat k (v / 256)

/-- Byte i of a list, zero beyond its end. -/
def byteAt (bs : List Byte) (i : Nat) : Byte := bs.getD i 0

/-- The little-endian value of `size` bytes at offset `off`, zero beyond the end. -/
def leAt (bs : List Byte) (off size : Nat) : Nat := natOfBytes ((bs.drop off).take size)

/-- The bytes from `off`, `size` of them, zero beyond the end. -/
def slice (bs : List Byte) (off size : Nat) : List Byte :=
  let t := (bs.drop off).take size
  t ++ List.replicate (size - t.length) 0

/-- A list cut into n pieces of k, one after another. -/
def cut {α : Type} (k : Nat) : (n : Nat) → List α → List (List α)
  | 0, _ => []
  | n + 1, xs => xs.take k :: cut k n (xs.drop k)

/-- The list padded with zero bytes, or cut, to `size` bytes. -/
def fitBytes (bs : List Byte) (size : Nat) : List Byte := slice bs 0 size

/-- The list padded with zero bytes to a multiple of `k` bytes. -/
def padTo (k : Nat) (bs : List Byte) : List Byte :=
  bs ++ List.replicate ((k - bs.length % k) % k) 0

/-- A number as `size` bytes with the most significant first (R475: keys and signatures). -/
def bytesBE (size v : Nat) : List Byte := (bytesOfNat size v).reverse

/-- The value of bytes with the most significant first (R475). -/
def natOfBytesBE (bs : List Byte) : Nat := natOfBytes bs.reverse

/-- ⌈a / b⌉. -/
def ceilDiv (a b : Nat) : Nat := (a + b - 1) / b

/-! ### Lists kept in strictly rising key order -/

/-- The value under key k. -/
def mapFind {α : Type} : List (Nat × α) → Nat → Option α
  | [], _ => none
  | (j, v) :: m, k => if j = k then some v else mapFind m k

/-- The value under key k, or d. -/
def mapGet {α : Type} (m : List (Nat × α)) (k : Nat) (d : α) : α := (mapFind m k).getD d

/-- The list with v under key k, order kept. -/
def mapSet {α : Type} : List (Nat × α) → Nat → α → List (Nat × α)
  | [], k, v => [(k, v)]
  | (j, w) :: m, k, v =>
    if k < j then (k, v) :: (j, w) :: m
    else if k = j then (k, v) :: m
    else (j, w) :: mapSet m k v

/-- The list without key k. -/
def mapErase {α : Type} (m : List (Nat × α)) (k : Nat) : List (Nat × α) :=
  m.filter fun e => e.1 != k

/-- The list with f applied to the value under k (to d where there is none). -/
def mapUpd {α : Type} (m : List (Nat × α)) (k : Nat) (d : α) (f : α → α) : List (Nat × α) :=
  mapSet m k (f (mapGet m k d))

/-- A sparse list's write: the default value is not listed. -/
def sparseSet {α : Type} [DecidableEq α] (d : α) (m : List (Nat × α)) (k : Nat) (v : α) :
    List (Nat × α) :=
  if v = d then mapErase m k else mapSet m k v

/-- The keys rise strictly. -/
def risingKeys {α : Type} : List (Nat × α) → Bool
  | [] => true
  | [_] => true
  | (j, _) :: (k, w) :: m => decide (j < k) && risingKeys ((k, w) :: m)

/-- The form of a sparse list: keys rise strictly and no entry holds the default. -/
def sparseWf {α : Type} [DecidableEq α] (d : α) (m : List (Nat × α)) : Bool :=
  risingKeys m && m.all fun e => decide (e.2 ≠ d)

end Sys2Proof.Machine
end

