-- ==== Sys2Proof/Machine/Codes.lean ====
section
/-! DEFINITION. The memory code of R243 to R249: the (137,128) SEC-DED check with the tag folded in, the
poison mark, and the classes a stored word reads as. -/

namespace Sys2Proof.Machine

/-- Columns of the check matrix (R244), part 0. -/
def columns0 : List Nat :=
  [0x007, 0x00B, 0x00D, 0x00E, 0x013, 0x015, 0x016, 0x019,
   0x01A, 0x01C, 0x023, 0x025, 0x026, 0x029, 0x02A, 0x02C,
   0x031, 0x032, 0x034, 0x038, 0x043, 0x045, 0x046, 0x049,
   0x04A, 0x04C, 0x051, 0x052, 0x054, 0x058, 0x061, 0x062,
   0x064, 0x068, 0x070, 0x083, 0x085, 0x086, 0x089, 0x08A,
   0x08C, 0x091, 0x092, 0x094, 0x098, 0x0A1, 0x0A2, 0x0A4]

/-- Columns of the check matrix (R244), part 1. -/
def columns1 : List Nat :=
  [0x0A8, 0x0B0, 0x0C1, 0x0C2, 0x0C4, 0x0C8, 0x0D0, 0x0E0,
   0x103, 0x105, 0x106, 0x109, 0x10A, 0x10C, 0x111, 0x112,
   0x114, 0x118, 0x121, 0x122, 0x124, 0x128, 0x130, 0x141,
   0x142, 0x144, 0x148, 0x150, 0x160, 0x181, 0x182, 0x184,
   0x188, 0x190, 0x1A0, 0x1C0, 0x01F, 0x02F, 0x037, 0x03B,
   0x03D, 0x03E, 0x04F, 0x057, 0x05B, 0x05D, 0x05E, 0x067]

/-- Columns of the check matrix (R244), part 2. -/
def columns2 : List Nat :=
  [0x06B, 0x06D, 0x06E, 0x073, 0x075, 0x076, 0x079, 0x07A,
   0x07C, 0x08F, 0x097, 0x09B, 0x09D, 0x09E, 0x0A7, 0x0AB,
   0x0AD, 0x0AE, 0x0B3, 0x0B5, 0x0B6, 0x0B9, 0x0BA, 0x0BC,
   0x0C7, 0x0CB, 0x0CD, 0x0CE, 0x0D3, 0x0D5, 0x0D6, 0x0D9,
   0x0DA, 0x0DC, 0x0E3, 0x0E5, 0x0E6, 0x0E9]

/-- Columns of d0 to d127, then t0 to t5 (R244). -/
def columns : List Nat := columns0 ++ columns1 ++ columns2

/-- The check of a word: the XOR of the columns of its set data and tag bits (R244). -/
def checkOfBits (v : Nat) : List Nat → Nat → Nat
  | [], _ => 0
  | c :: cs, i => (if v.testBit i then c else 0) ^^^ checkOfBits v cs (i + 1)

/-- CHECK of 128 data bits and a 6-bit tag (R244). -/
def checkOf (data tag : Nat) : Nat := checkOfBits (data % 2 ^ 128 + tag % 64 * 2 ^ 128) columns 0

/-- Metadata of a word (R243): CHECK, POISON, TAG. -/
def metaOf (check : Nat) (poison : Bool) (tag : Nat) : Nat := check % 512 + bit poison * 512 + tag % 64 * 1024

/-- Metadata of a correctly written word: clean, or poisoned with CHECK XOR 0x1FF (R245). -/
def writeMeta (data tag : Nat) (poison : Bool) : Nat :=
  metaOf (if poison then checkOf data tag ^^^ 0x1FF else checkOf data tag) poison tag

/-- What a read of a stored word finds (R246). -/
inductive WordClass where
  | clean
  | corrected
  | poisoned
  | uncorrectable
  deriving DecidableEq, Repr

/-- The result of reading a stored word: its class, the data delivered, the corrected word to write back
(data, metadata) where it is correctable, and the syndrome. -/
structure WordRead where
  cls      : WordClass
  data     : Nat
  fixData  : Nat
  fixMeta  : Nat
  syndrome : Nat
  tag      : Nat
  poisonBit : Bool
  deriving DecidableEq, Repr

/-- Position of a column in a list. -/
def columnIndex (s : Nat) : List Nat → Nat → Option Nat
  | [], _ => none
  | c :: cs, i => if c = s then some i else columnIndex s cs (i + 1)

/-- R246's table. -/
def readWord (data md : Nat) : WordRead :=
  let check := md % 512
  let poison := md.testBit 9
  let tag := md / 1024 % 64
  let s := check ^^^ checkOf data tag
  let r := fun (c : WordClass) (d m : Nat) => (⟨c, d, d, m, s, tag, poison⟩ : WordRead)
  if s = 0x1FF then r .poisoned data md
  else if s = 0 then if poison then r .corrected data (metaOf check false tag) else r .clean data md
  else if poison then r .uncorrectable data md
  else
    match columnIndex s columns 0 with
    | some i =>
      if i < 128 then r .corrected (data ^^^ 2 ^ i) md
      else r .corrected data (metaOf check false (tag ^^^ 2 ^ (i - 128)))
    | none =>
      match columnIndex s (List.map (fun j => 2 ^ j) (List.range 9)) 0 with
      | some j => r .corrected data (metaOf (check ^^^ 2 ^ j) false tag)
      | none => r .uncorrectable data md

/-! ### CRC-32 with the IEEE 802.3 polynomial (R314, R354, R533) -/

/-- Eight shifts of the reflected CRC register. -/
def crcShift : Nat → Nat → Nat
  | 0, r => r
  | k + 1, r => crcShift k (if r % 2 = 1 then (r / 2) ^^^ 0xEDB88320 else r / 2)

/-- CRC-32 of bytes: initial value and final XOR of all ones, bits least significant first. -/
def crc32 (bs : List Byte) : Nat :=
  bs.foldl (fun r b => crcShift 8 (r ^^^ b.toNat)) 0xFFFFFFFF ^^^ 0xFFFFFFFF

/-! ### The lane draw (R297) -/

/-- Rotate a 32-bit word left. -/
def rotl32 (x n : Nat) : Nat := (x * 2 ^ n % 2 ^ 32) + x / 2 ^ (32 - n)

/-- One round of lane_draw: constant rc and key word kw. -/
def laneRound (rc kw : Nat) (x : Nat × Nat × Nat × Nat) : Nat × Nat × Nat × Nat :=
  let (x0, x1, x2, x3) := x
  let x0 := (x0 + x1 + rc) % 2 ^ 32
  let x3 := rotl32 (x3 ^^^ x0) 16
  let x2 := (x2 + x3) % 2 ^ 32
  let x1 := rotl32 (x1 ^^^ x2) 12
  let x0 := (x0 + x1) % 2 ^ 32
  let x3 := rotl32 (x3 ^^^ x0) 8
  let x2 := (x2 + x3) % 2 ^ 32
  let x1 := rotl32 (x1 ^^^ x2) 7
  (x0 ^^^ kw, x1, x2, x3)

/-- lane_draw of a 128-bit key and a 64-bit counter (R297). -/
def laneDraw (key n : Nat) : Nat :=
  let k := fun (i : Nat) => key / 2 ^ (32 * i) % 2 ^ 32
  let x := (n % 2 ^ 32, n / 2 ^ 32 % 2 ^ 32, k 0, k 1)
  let x := laneRound 0x9E3779B9 (k 2) x
  let x := laneRound 0x3C6EF372 (k 3) x
  let x := laneRound 0xDAA66D2B (k 0) x
  let (x0, x1, x2, x3) := laneRound 0x78DDE6E4 (k 1) x
  x0 ^^^ x1 ^^^ x2 ^^^ x3

/-- A stream key (R295). -/
def streamKey (seed rank cls unit : Nat) : Nat :=
  (packRec 128 [(63, 0, seed), (87, 64, rank), (89, 88, cls), (111, 96, unit)]).toNat

end Sys2Proof.Machine
end

