-- ==== Sys2Proof/Config.lean ====
section
/-! DEFINITION. What one part or its surroundings fix and the spec leaves open: fused and fitted values,
straps, calibration, and the free values. Every constant is opaque: nothing can evaluate it, so a claim holds
for every value it may have (log 6, 8, 12). -/

namespace Sys2Proof.Config

/-- SERIAL (R476). -/
opaque serial : BitVec 128
/-- ROOT_HASH (R476). -/
opaque rootHash : BitVec 384
/-- The anti-rollback counter as the part left the factory, 0 to 255 (R483). -/
opaque rollback : Fin 256
/-- The identity private key of a part shipped in Deployed (R476, R477). -/
opaque identityKey : BitVec 384
/-- The device certificate burned on entering Deployed (R476, R486). -/
opaque certificate : List Byte
/-- REV_ID, the silicon stepping (R406). -/
opaque revId : BitVec 16
/-- True for BRT1-0512-L, false for BRT1-1024-L (R2). -/
opaque order512 : Bool
/-- SLOT_ID0 to SLOT_ID5 as sampled before the model's reset (R517). -/
opaque slotStraps : BitVec 6
/-- The input voltage as measured at the model's reset, in units of 10 mV (R519). -/
opaque vin : BitVec 16
/-- The fused coefficient of event class `cls` (R451's order, 0 to 15) at operating point `op`, in aJ or µW (R452, R497). -/
opaque coefficient : (op cls : Nat) → Nat
/-- The fused static power of node type `n` (0 workshop, 1 guild) at operating point `op` and temperature point `j`, in µW
(R451, R497). -/
opaque staticPower : (op n j : Nat) → Nat
/-- The handle of the tensor that holds the bfloat16 parameters of stationary tensor `h` for the outlier lane: the spec says that the
stationary operand's descriptor names it, and gives that descriptor no field for it (R120, R408). -/
opaque outlierSource : (h : Nat) → Nat
/-- The largest amax code, below 0x7F80, of the other members of a tensor's group in the first pass of calibration in step `t`: the
spec gives the merge of R163 no frames. -/
opaque memberAmax : (t h : Nat) → Nat
/-- The largest amax code, below 0x7F80, that the first pass finds in entry `op` of step `t` for tensor `h` where a stream comes from a
buffer that is filled only as the step runs (R163). -/
opaque bufferAmax : (t h op : Nat) → Nat
/-- The fused conversion efficiency at load point `j`, times 2^16 (R451, R497). -/
opaque efficiency : (j : Nat) → Nat
/-- The sensor that gives a workshop's or guild's junction temperature (R451, R469: which one is not stated). -/
opaque nodeSensor : (level index : Nat) → Nat
/-- A free value: the i-th choice the spec leaves to the module or to its surroundings (log 12). -/
opaque freeNat : Nat → Nat
/-- The output of the conditioned noise source at the i-th use (R478). -/
opaque noise : Nat → BitVec 384

end Sys2Proof.Config
end

