-- ==== Sys2Proof/Machine/Dyadic.lean ====
section
/-! DEFINITION. Exact numbers m × 2^e. Every sum, scale and comparison that the spec calls exact (R36,
R48, R72, R77, R112, R329) is done on these. -/

namespace Sys2Proof.Machine

/-- The dyadic rational m × 2^e. -/
structure Dy where
  m : Int
  e : Int
  deriving DecidableEq, Repr

/-- Zero. -/
def dyZero : Dy := ⟨0, 0⟩

/-- A natural number. -/
def dyNat (n : Nat) : Dy := ⟨n, 0⟩

/-- 2^e. -/
def dyPow2 (e : Int) : Dy := ⟨1, e⟩

/-- The integer x × 2^(−e), for e no greater than x's exponent. -/
def dyAt (x : Dy) (e : Int) : Int := x.m * (2 ^ (x.e - e).toNat : Nat)

/-- Exact sum. -/
def dyAdd (x y : Dy) : Dy :=
  let e := min x.e y.e
  ⟨dyAt x e + dyAt y e, e⟩

/-- Exact negation. -/
def dyNeg (x : Dy) : Dy := ⟨-x.m, x.e⟩

/-- Exact difference. -/
def dySub (x y : Dy) : Dy := dyAdd x (dyNeg y)

/-- Exact product. -/
def dyMul (x y : Dy) : Dy := ⟨x.m * y.m, x.e + y.e⟩

/-- Magnitude. -/
def dyAbs (x : Dy) : Dy := ⟨x.m.natAbs, x.e⟩

/-- Exact comparison. -/
def dyCmp (x y : Dy) : Ordering :=
  let e := min x.e y.e
  compare (dyAt x e) (dyAt y e)

/-- x < y. -/
def dyLt (x y : Dy) : Bool := dyCmp x y == .lt

/-- x ≤ y. -/
def dyLe (x y : Dy) : Bool := dyCmp x y != .gt

/-- x = y as numbers. -/
def dyEq (x y : Dy) : Bool := dyCmp x y == .eq

/-- The larger of two. -/
def dyMax (x y : Dy) : Dy := if dyLt x y then y else x

/-- The smaller of two. -/
def dyMin (x y : Dy) : Dy := if dyLt y x then y else x

/-- Is it zero? -/
def dyIsZero (x : Dy) : Bool := x.m == 0

/-- Is it below zero? -/
def dyIsNeg (x : Dy) : Bool := decide (x.m < 0)

/-- ⌊log2 |x|⌋ of a nonzero number. -/
def dyLog2 (x : Dy) : Int := (Nat.log2 x.m.natAbs : Int) + x.e

/-- ⌊x × 2^(−e)⌋ toward zero on the magnitude, with the sign kept, and whether bits were lost: the
truncation of R77 at weight 2^e. -/
def dyTrunc (x : Dy) (e : Int) : Int × Bool :=
  if e ≤ x.e then (dyAt x e, false)
  else
    let d := 2 ^ (e - x.e).toNat
    let q : Nat := x.m.natAbs / d
    (if x.m < 0 then -(q : Int) else q, x.m.natAbs % d != 0)

/-- x^k. -/
def dyPowNat (x : Dy) (k : Nat) : Dy := ⟨x.m ^ k, x.e * k⟩

end Sys2Proof.Machine
end

