-- ==== Sys2Proof/Machine/Operands.lean ====
section
/-! DEFINITION. The fifteen formats (R16 to R32): what each code means, its class (R17), its linear
companion (R18, R21), its decoding as an M-mode operand (R65), and how narrow codes are packed (R32). -/

namespace Sys2Proof.Machine

/-- The formats of R16. -/
inductive Fmt where
  | b1 | b2 | b3 | b4 | int5 | int6 | int7 | int8 | l8 | l16 | f8a | f8b | bf16 | f16 | f32
  deriving DecidableEq, Repr

/-- Format codes (R107); 0xF is reserved. -/
def fmtOfCode (c : Nat) : Option Fmt :=
  match c with
  | 0 => some .b1 | 1 => some .b2 | 2 => some .b3 | 3 => some .b4
  | 4 => some .int5 | 5 => some .int6 | 6 => some .int7 | 7 => some .int8
  | 8 => some .l8 | 9 => some .l16 | 10 => some .f8a | 11 => some .f8b
  | 12 => some .bf16 | 13 => some .f16 | 14 => some .f32
  | _ => none

/-- Width of a code in bits (R16). -/
def Fmt.width : Fmt → Nat
  | .b1 => 1 | .b2 => 2 | .b3 => 3 | .b4 => 4
  | .int5 => 5 | .int6 => 6 | .int7 => 7 | .int8 => 8
  | .l8 => 8 | .l16 => 16 | .f8a => 8 | .f8b => 8
  | .bf16 => 16 | .f16 => 16 | .f32 => 32

/-- The B formats (R20). -/
def Fmt.isB : Fmt → Bool
  | .b1 | .b2 | .b3 | .b4 => true
  | _ => false

/-- The B formats and L8: operands of L-mode (R54). -/
def Fmt.isLog : Fmt → Bool
  | .l8 => true
  | f => f.isB

/-- The integer formats (R27). -/
def Fmt.isInt : Fmt → Bool
  | .int5 | .int6 | .int7 | .int8 => true
  | _ => false

/-- The three IEEE-shaped formats of R42, whose scale is fixed at 1.0 (R33). -/
def Fmt.isIeee : Fmt → Bool
  | .bf16 | .f16 | .f32 => true
  | _ => false

/-- The five floating formats of R41. -/
def Fmt.isFloat : Fmt → Bool
  | .f8a | .f8b | .bf16 | .f16 | .f32 => true
  | _ => false

/-- Does a tensor of this format carry a scale of its own (R33)? -/
def Fmt.scaled (f : Fmt) : Bool := !f.isIeee && f != .l16

/-- Fraction bits and exponent bias of a floating format (R28 to R30). -/
def Fmt.floatShape : Fmt → Nat × Nat
  | .f8a => (3, 7) | .f8b => (2, 15) | .bf16 => (7, 127) | .f16 => (10, 15) | .f32 => (23, 127)
  | _ => (0, 0)

/-- Companion significand table C of R18. -/
def companionC (k : Nat) : Nat := [256, 279, 304, 332, 362, 395, 431, 470].getD k 256

/-- The linear companion of eighth index e (R18): C[e mod 8] × 2^(⌊e/8⌋ − 8). -/
def companion (e : Int) : Dy := ⟨companionC (e % 8).toNat, e / 8 - 8⟩

/-- Eighth index of magnitude index i ≥ 1 in a B or L8 format (R21, R22). -/
def eighthIndex (f : Fmt) (i : Nat) : Int :=
  match f with
  | .b3 => [0, -12, -5, 0].getD i 0
  | .b4 => [0, -20, -14, -10, -7, -4, -2, 0].getD i 0
  | .l8 => (i : Int) - 96
  | _ => 0

/-- The class of a code, product or element (R17, R82), with the sign of an infinity. -/
inductive Cls where
  | finite | posInf | negInf | nan
  deriving DecidableEq, Repr

/-- A decoded value: class, sign (also of a zero), exact value when finite. -/
structure Num where
  cls : Cls
  neg : Bool
  v   : Dy
  deriving DecidableEq, Repr

/-- A finite value. -/
def numFin (neg : Bool) (mag : Dy) : Num := ⟨.finite, neg, if neg then dyNeg mag else mag⟩

/-- NaN or NaR. -/
def numNan : Num := ⟨.nan, false, dyZero⟩

/-- ±∞. -/
def numInf (neg : Bool) : Num := ⟨if neg then .negInf else .posInf, neg, dyZero⟩

/-- Correctly rounded 24-bit T16[f] of R25, in units of 2^−23: the integer nearest to 2^(23 + f/256).
`t16Search` finds ⌊2^(24 + f/256)⌋ bit by bit from x^256 ≤ 2^(6144 + f). -/
def t16Search (target : Nat) : (bits : Nat) → Nat → Nat
  | 0, acc => acc
  | b + 1, acc =>
    let x := acc + 2 ^ b
    if x ^ 256 ≤ target then t16Search target b x else t16Search target b acc

def t16 (f : Nat) : Nat := (t16Search (2 ^ (6144 + f)) 26 0 + 1) / 2

/-- Decoded magnitude of an L16 magnitude m (R25), zero for 0. -/
def l16Mag (m : Nat) : Dy :=
  if m = 0 then dyZero
  else
    let d : Int := (m : Int) - 16384
    ⟨t16 (d % 256).toNat, d / 256 - 23⟩

/-- Value of magnitude index i of a format in code units: the code without its sign (linear companion
for log formats, R19). Meaningful for i up to `maxMag`. -/
def magValue (f : Fmt) (i : Nat) : Dy :=
  match f with
  | .b1 => dyNat 1
  | .b2 | .b3 | .b4 | .l8 => if i = 0 then dyZero else companion (eighthIndex f i)
  | .int5 | .int6 | .int7 | .int8 => dyNat i
  | .l16 => l16Mag i
  | .f8a | .f8b | .bf16 | .f16 | .f32 =>
    let (fb, bias) := f.floatShape
    let ex := i / 2 ^ fb
    let fr := i % 2 ^ fb
    if ex = 0 then ⟨fr, 1 - (bias : Int) - fb⟩
    else ⟨2 ^ fb + fr, (ex : Int) - bias - fb⟩

/-- Index of the largest finite magnitude (R36's Qmax as an index). -/
def maxMag : Fmt → Nat
  | .b1 => 0 | .b2 => 1 | .b3 => 3 | .b4 => 7
  | .int5 => 15 | .int6 => 31 | .int7 => 63 | .int8 => 127
  | .l8 => 127 | .l16 => 32767
  | .f8a => 0x7E | .f8b => 0x7B | .bf16 => 0x7F7F | .f16 => 0x7BFF | .f32 => 0x7F7FFFFF

/-- Index of the smallest normal magnitude of a floating format; 1 elsewhere. -/
def minNormalMag (f : Fmt) : Nat := if f.isFloat then 2 ^ f.floatShape.1 else 1

/-- Qmax of R36 in code units. -/
def qmax (f : Fmt) : Dy := magValue f (maxMag f)

/-- The NaN or NaR code of a format (R20 to R31); B1 writes 0b0 (R44). -/
def nanCode : Fmt → Nat
  | .b1 => 0 | .b2 => 2 | .b3 => 4 | .b4 => 8
  | .int5 => 0x10 | .int6 => 0x20 | .int7 => 0x40 | .int8 => 0x80
  | .l8 => 0x80 | .l16 => 0x8000
  | .f8a => 0x7F | .f8b => 0x7E | .bf16 => 0x7FC0 | .f16 => 0x7E00 | .f32 => 0x7FC00000

/-- The code of magnitude index i with a sign (two's complement for the integers, R27). -/
def codeOf (f : Fmt) (neg : Bool) (i : Nat) : Nat :=
  if f.isInt then (if neg then (2 ^ f.width - i) % 2 ^ f.width else i)
  else if f = .b1 then bit neg
  else if neg && !(i = 0 && (f.isLog || f = .l16)) then 2 ^ (f.width - 1) + i
  else i

/-- The code of an infinity; the largest finite code where the format has none (R44). -/
def infCode (f : Fmt) (neg : Bool) : Nat :=
  match f with
  | .f8b => if neg then 0xFC else 0x7C
  | .bf16 => if neg then 0xFF80 else 0x7F80
  | .f16 => if neg then 0xFC00 else 0x7C00
  | .f32 => if neg then 0xFF800000 else 0x7F800000
  | _ => codeOf f neg (maxMag f)

/-- Has the format codes for infinity (R17, R28, R29)? -/
def Fmt.hasInf (f : Fmt) : Bool := f.isIeee || f = .f8b

/-- Sign and magnitude index of a code. -/
def splitCode (f : Fmt) (code : Nat) : Bool × Nat :=
  let c := code % 2 ^ f.width
  let top := c.testBit (f.width - 1)
  if f.isInt then (top, if top then 2 ^ f.width - c else c)
  else if f = .b1 then (top, 0)
  else (top, c % 2 ^ (f.width - 1))

/-- Is the magnitude index a subnormal of a floating format? -/
def isSubnormalMag (f : Fmt) (i : Nat) : Bool := f.isFloat && decide (0 < i ∧ i < minNormalMag f)

/-- Decode a code before scale; `flush` reads subnormals as zero of their sign (R41). Linear companions
for B and L8 (R19), R25 for L16. -/
def decode (f : Fmt) (flush : Bool) (code : Nat) : Num :=
  let (neg, i) := splitCode f code
  if f.isInt then if i = 2 ^ (f.width - 1) then numNan else numFin neg (dyNat i)
  else if f = .b1 then numFin neg (dyNat 1)
  else if f.isLog || f = .l16 then
    if neg && i = 0 then numNan else numFin neg (magValue f i)
  else if i ≤ maxMag f then
    if flush && isSubnormalMag f i then numFin neg dyZero else numFin neg (magValue f i)
  else if f.hasInf && i = (infCode f false) then numInf neg
  else numNan

/-- Does reading this code in Fast mode count a flush event (R41)? -/
def readFlushes (f : Fmt) (code : Nat) : Bool := isSubnormalMag f (splitCode f code).2

/-- An operand decoded for M-mode (R65): sign, significand M, exponent E, width w. Value M × 2^E. -/
structure MOp where
  neg : Bool
  m   : Nat
  e   : Int
  w   : Nat
  deriving DecidableEq, Repr

/-- Significand width w (R65). -/
def mWidth : Fmt → Nat
  | .int5 => 4 | .int6 => 5 | .int7 => 6 | .int8 => 7
  | .f8a => 4 | .f8b => 3 | .bf16 => 8 | .f16 => 11 | .f32 => 24
  | _ => 9

/-- The decoding table of R65 for a finite code; zero gives M = 0. -/
def mDecode (f : Fmt) (flush : Bool) (code : Nat) : MOp :=
  let (neg, i) := splitCode f code
  let w := mWidth f
  if f.isInt then ⟨neg, i, 0, w⟩
  else if f.isLog then
    if i = 0 && f != .b1 then ⟨neg, 0, 0, w⟩
    else
      let e := eighthIndex f i
      ⟨neg, companionC (e % 8).toNat, e / 8 - 8, w⟩
  else
    let (fb, bias) := f.floatShape
    let ex := i / 2 ^ fb
    let fr := i % 2 ^ fb
    if ex = 0 then ⟨neg, if flush then 0 else fr, 1 - (bias : Int) - fb, w⟩
    else ⟨neg, 2 ^ fb + fr, (ex : Int) - bias - fb, w⟩

/-- Nibbles of a significand of width w (R65). -/
def nibbles (w : Nat) : Nat := ceilDiv w 4

/-! ### Packing (R32) and element addresses (R208) -/

/-- Elements in a 32-bit word for a code narrower than 8 bits (R32). -/
def perWord (w : Nat) : Nat := [0, 32, 16, 10, 8, 6, 5, 4].getD w 0

/-- Bit address of element o from a byte base (R208): byte address × 8 plus the bit within. -/
def elemBitAddr (base : Nat) (f : Fmt) (o : Int) : Int :=
  if 8 ≤ f.width then 8 * (base : Int) + o * f.width
  else
    let e := perWord f.width
    8 * ((base : Int) + 4 * (o / e)) + (o % e) * f.width

/-- Bytes that n elements of a format take from a word-aligned base (R32). -/
def packedBytes (f : Fmt) (n : Nat) : Nat :=
  if 8 ≤ f.width then n * f.width / 8 else 4 * ceilDiv n (perWord f.width)

end Sys2Proof.Machine
end

