-- ==== Sys2Proof/Machine/Rounding.lean ====
section
/-! DEFINITION. Conversion into a format (R41 to R50, R531): the three rounding rules, saturation,
overflow, flushing and the flags, all on exact values. A magnitude is given by its comparison with every
dyadic number, so that quotients, roots and powers round by the same text as sums do. -/

namespace Sys2Proof.Machine

/-- The rounding rules of R45; a stochastic rounding carries its draw u. -/
inductive Rule where
  | nearest
  | odd
  | stochastic (u : Nat)
  deriving DecidableEq, Repr

/-- How special ranges are handled: `sub` keeps subnormals (Strict R42, mill R270), `ieee` overflows to
infinity in the IEEE-shaped formats and raises flags (R42, R43). -/
structure RMode where
  sub  : Bool
  ieee : Bool
  deriving DecidableEq, Repr

/-- Fast mode (R41, R43). -/
def rFast : RMode := ⟨false, false⟩
/-- Strict mode (R42). -/
def rStrict : RMode := ⟨true, true⟩
/-- The mill's roundings: subnormals kept, saturation (R270). -/
def rMill : RMode := ⟨true, false⟩

/-- What a conversion gives: the code, and what it counts or raises. -/
structure Conv where
  code  : Nat
  sat   : Bool := false
  flush : Bool := false
  inv   : Bool := false
  nv    : Bool := false
  dz    : Bool := false
  of    : Bool := false
  uf    : Bool := false
  nx    : Bool := false
  deriving DecidableEq, Repr

/-- The largest i below 2^bits + acc with `le i`, found bit by bit; `le` holds on an initial range. -/
def searchBits (le : Nat → Bool) : (bits : Nat) → Nat → Nat
  | 0, acc => acc
  | b + 1, acc => if le (acc + 2 ^ b) then searchBits le b (acc + 2 ^ b) else searchBits le b acc

/-- Midpoint of two numbers. -/
def dyMid (a b : Dy) : Dy := let s := dyAdd a b; ⟨s.m, s.e - 1⟩

/-- lo + u × (hi − lo) / 2^32: the magnitude above which R48 rounds up. -/
def srThreshold (lo hi : Dy) (u : Nat) : Dy :=
  let g := dyMul (dyNat u) (dySub hi lo)
  dyAdd lo ⟨g.m, g.e - 32⟩

/-- Does the magnitude round up from lo to hi, the even one being told by `loEven`? -/
def roundsUp (cmp : Dy → Ordering) (rule : Rule) (lo hi : Dy) (loEven : Bool) : Bool :=
  match rule with
  | .nearest =>
    match cmp (dyMid lo hi) with
    | .gt => true
    | .lt => false
    | .eq => !loEven
  | .odd => loEven
  | .stochastic u => cmp (srThreshold lo hi u) == .gt

/-- Is the result tiny after rounding with an unbounded exponent range (R178)? -/
def tinyAfter (f : Fmt) (scale : Dy) (rule : Rule) (cmp : Dy → Ordering) : Bool :=
  let (fb, bias) := f.floatShape
  let mn : Dy := dyMul scale (dyPow2 (1 - (bias : Int)))
  let lo : Dy := dySub mn (dyMul scale (dyPow2 (-(bias : Int) - fb)))
  if cmp mn != .lt then false
  else if cmp lo == .lt then true
  else !(roundsUp cmp rule lo mn false)

/-- Flags of a saturating conversion in Strict mode, where the target has no infinity of its own: an integer target signals
the invalid operation of a value outside its range, every other one overflow (R42, R43; DEDUCED, log 62). -/
def satFlags (f : Fmt) (md : RMode) : Conv :=
  { code := 0, sat := true, nv := md.ieee && f.isInt, of := md.ieee && !f.isInt, nx := md.ieee && !f.isInt }

/-- Round a nonzero finite magnitude to a magnitude index of f with the given positive scale. The result
is the index (none for infinity) and the counted events. In Fast mode a round to odd of an infinitesimal for a float target
flushes to a zero of its sign with a flush event: R41 goes before R114 there (DEDUCED, log 63). -/
def roundMag (f : Fmt) (scale : Dy) (md : RMode) (rule : Rule) (cmp : Dy → Ordering) :
    Option Nat × Conv :=
  let val := fun i => dyMul (magValue f i) scale
  let top := val (maxMag f)
  if cmp top == .gt then
    if md.ieee && f.isIeee then
      let hi := dyPow2 (f.floatShape.2 + 1)
      let toInf : Bool :=
        match rule with
        | .nearest => cmp (dyMid top hi) != .lt
        | .odd => cmp hi != .lt
        | .stochastic u => cmp hi != .lt || cmp (srThreshold top hi u) == .gt
      if toInf then (none, { code := 0, of := true, nx := true })
      else (some (maxMag f), { code := 0, nx := true })
    else (some (maxMag f), satFlags f md)
  else if f = .b1 then (some 0, { code := 0, nx := md.ieee && cmp top != .eq })
  else
    let i := searchBits (fun k => decide (k ≤ maxMag f) && cmp (val k) != .lt) 31 0
    let exact := cmp (val i) == .eq
    let noSub := f.isFloat && !md.sub
    match rule with
    | .stochastic _ =>
      let lo := if noSub && decide (i < minNormalMag f) then 0 else i
      let hi := if noSub && decide (i < minNormalMag f) then minNormalMag f else i + 1
      if cmp (val lo) == .eq then (some lo, { code := 0 })
      else
        let r := if roundsUp cmp rule (val lo) (val hi) true then hi else lo
        (some r, { code := 0, nx := md.ieee, uf := md.ieee && f.isFloat && tinyAfter f scale rule cmp })
    | _ =>
      let r := if exact then i
               else if roundsUp cmp rule (val i) (val (i + 1)) (i % 2 == 0) then i + 1 else i
      if noSub && decide (0 < r ∧ r < minNormalMag f) then (some 0, { code := 0, flush := true })
      else
        let inx := md.ieee && !exact
        (some r, { code := 0, nx := inx, uf := inx && f.isFloat && tinyAfter f scale rule cmp })

/-- Comparison of the magnitude |x| + δ with d, δ an infinitesimal whose sign is `dir` (R113). -/
def cmpEps (x : Dy) (dir : Int) (d : Dy) : Ordering :=
  match dyCmp (dyAbs x) d with
  | .eq => if dir > 0 then .gt else if dir < 0 then .lt else .eq
  | o => o

/-- The zero code of a format with a sign (R44): the sign is kept where the format has a signed zero, and
B1 writes +1 and counts a flush event. -/
def zeroConv (f : Fmt) (neg : Bool) : Conv :=
  if f = .b1 then { code := 0, flush := true }
  else { code := codeOf f (neg && f.isFloat) 0 }

/-- Put sign and code on a rounded magnitude. -/
def finishMag (f : Fmt) (neg : Bool) (r : Option Nat × Conv) : Conv :=
  match r.1 with
  | none => { r.2 with code := infCode f neg }
  | some i => { r.2 with code := codeOf f neg i }

/-- Convert the value x + dir·ε into format f with a scale (R44 to R48). -/
def convert (f : Fmt) (scale : Dy) (md : RMode) (rule : Rule) (x : Num) (dir : Int := 0) : Conv :=
  match x.cls with
  | .nan => if f = .b1 then { code := 0, inv := true, nv := md.ieee } else { code := nanCode f, nv := md.ieee && f.isInt }
  | .posInf => { code := infCode f false, sat := !f.hasInf, nv := md.ieee && !f.hasInf }
  | .negInf => { code := infCode f true, sat := !f.hasInf, nv := md.ieee && !f.hasInf }
  | .finite =>
    if dyIsZero x.v then
      if dir = 0 then zeroConv f x.neg
      else finishMag f (decide (dir < 0)) (roundMag f scale md rule (cmpEps dyZero 1))
    else
      let neg := dyIsNeg x.v
      let d := if neg then -dir else dir
      finishMag f neg (roundMag f scale md rule (cmpEps x.v d))

/-- 16,384 + round(256 × log2 |x|) for a nonzero x (R26): 2k − 1 ≤ ⌊log2 x^512⌋ < 2k + 1 names k. -/
def l16OfDy (x : Dy) : Int :=
  16384 + (dyLog2 (dyPowNat (dyAbs x) 512) + 1) / 2

/-! ### The bfloat16 roundings that have rules of their own -/

/-- Value of a bfloat16 code as a scale (a positive normal, R33). -/
def bf16Val (code : Nat) : Dy := magValue .bf16 (code % 2 ^ 15)

/-- Is the code a positive normal bfloat16 (R33, R40)? -/
def bf16PosNormal (code : Nat) : Bool := decide (0x80 ≤ code ∧ code ≤ 0x7F7F)

/-- A magnitude rounded toward +∞ to bfloat16, at most the largest finite bfloat16 (R35). -/
def bf16Up (x : Dy) : Nat :=
  let i := searchBits (fun k => decide (k ≤ 0x7F7F) && dyLe (magValue .bf16 k) (dyAbs x)) 15 0
  if dyEq (magValue .bf16 i) (dyAbs x) then i else min (i + 1) 0x7F7F

/-- R36: the smallest positive normal bfloat16 s with s × Qmax ≥ H, and whether it saturated. -/
def scaleFor (f : Fmt) (h : Dy) : Nat × Bool :=
  if dyLt (dyMul (bf16Val 0x7F7F) (qmax f)) h then (0x7F7F, true)
  else
    let i := searchBits (fun k => decide (k ≤ 0x7F7F) && dyLt (dyMul (bf16Val k) (qmax f)) h) 15 0
    (max 0x80 (if dyLt (dyMul (bf16Val i) (qmax f)) h then i + 1 else i), false)

/-! ### binary32 arithmetic, each operation rounded on its own (R156, R270) -/

/-- A binary32 code's value with subnormals kept. -/
def f32Num (c : Nat) : Num := decode .f32 false c

/-- Round an exact value to binary32, nearest even, subnormals kept, overflow to infinity. -/
def f32Of (x : Num) : Nat := (convert .f32 (dyNat 1) rStrict .nearest x).code

/-- A finite exact value as a number, zero positive. -/
def numOf (d : Dy) : Num := ⟨.finite, dyIsNeg d, d⟩

/-- Exact sum with IEEE classes: ∞ − ∞ is NaN, −0 + −0 is −0. -/
def numAdd (x y : Num) : Num :=
  match x.cls, y.cls with
  | .nan, _ => numNan
  | _, .nan => numNan
  | .finite, .finite =>
    let s := dyAdd x.v y.v
    ⟨.finite, if dyIsZero s then x.neg && y.neg else dyIsNeg s, s⟩
  | .finite, c => ⟨c, y.neg, dyZero⟩
  | c, .finite => ⟨c, x.neg, dyZero⟩
  | .posInf, .posInf => numInf false
  | .negInf, .negInf => numInf true
  | _, _ => numNan

/-- Sign change. -/
def numNeg (x : Num) : Num :=
  ⟨match x.cls with | .posInf => .negInf | .negInf => .posInf | c => c, !x.neg, dyNeg x.v⟩

/-- Exact product with IEEE classes: 0 × ∞ is NaN. -/
def numMul (x y : Num) : Num :=
  let neg := x.neg != y.neg
  match x.cls, y.cls with
  | .nan, _ => numNan
  | _, .nan => numNan
  | .finite, .finite => ⟨.finite, neg, dyMul x.v y.v⟩
  | .finite, _ => if dyIsZero x.v then numNan else numInf neg
  | _, .finite => if dyIsZero y.v then numNan else numInf neg
  | _, _ => numInf neg

/-- A quotient rounded once: x / y into f; division of a nonzero finite value by zero is infinite (R177). -/
def divConv (f : Fmt) (md : RMode) (x y : Num) : Conv :=
  let neg := x.neg != y.neg
  match x.cls, y.cls with
  | .nan, _ => { code := nanCode f }
  | _, .nan => { code := nanCode f }
  | .finite, .finite =>
    if dyIsZero y.v then
      if dyIsZero x.v then { code := nanCode f, nv := md.ieee }
      else { code := infCode f neg, dz := md.ieee }
    else if dyIsZero x.v then zeroConv f neg
    else finishMag f neg (roundMag f (dyNat 1) md .nearest
      fun d => dyCmp (dyAbs x.v) (dyMul d (dyAbs y.v)))
  | .finite, _ => zeroConv f neg
  | _, .finite => { code := infCode f neg }
  | _, _ => { code := nanCode f, nv := md.ieee }

/-- √x rounded once into f. -/
def sqrtConv (f : Fmt) (md : RMode) (x : Num) : Conv :=
  match x.cls with
  | .nan => { code := nanCode f }
  | .negInf => { code := nanCode f, nv := md.ieee }
  | .posInf => { code := infCode f false }
  | .finite =>
    if dyIsZero x.v then zeroConv f x.neg
    else if dyIsNeg x.v then { code := nanCode f, nv := md.ieee }
    else finishMag f false (roundMag f (dyNat 1) md .nearest fun d => dyCmp x.v (dyMul d d))

/-- binary32 operations on codes. -/
def f32Add (a b : Nat) : Nat := f32Of (numAdd (f32Num a) (f32Num b))
def f32Sub (a b : Nat) : Nat := f32Of (numAdd (f32Num a) (numNeg (f32Num b)))
def f32Mul (a b : Nat) : Nat := f32Of (numMul (f32Num a) (f32Num b))
def f32Div (a b : Nat) : Nat := (divConv .f32 rStrict (f32Num a) (f32Num b)).code
def f32Sqrt (a : Nat) : Nat := (sqrtConv .f32 rStrict (f32Num a)).code

/-- binary32 code of an exact number. -/
def f32OfDy (d : Dy) : Nat := f32Of (numOf d)

/-- A finite binary32 code? -/
def f32Finite (c : Nat) : Bool := (f32Num c).cls == .finite

/-- One half: the binary32 nearest to an exact rational n / d with d > 0 (R270's bc1 and bc2). -/
def f32OfRatio (n : Int) (d : Nat) : Nat :=
  if n = 0 then 0
  else (finishMag .f32 (decide (n < 0)) (roundMag .f32 (dyNat 1) rStrict .nearest
    fun x => dyCmp (dyNat n.natAbs) (dyMul x (dyNat d)))).code

/-- bfloat16 code nearest to a binary32 code, ties to even, subnormals kept (R156). -/
def bf16OfF32 (c : Nat) : Nat := (convert .bf16 (dyNat 1) rStrict .nearest (f32Num c)).code

/-- Stochastic rounding of a binary32 code to bfloat16: sr16 of R270, with its counted saturation. -/
def sr16 (c u : Nat) : Conv := convert .bf16 (dyNat 1) rMill (.stochastic u) (f32Num c)

end Sys2Proof.Machine
end

