-- ==== Sys2Proof/Machine/Cells.lean ====
section
/-! DEFINITION. What cells and columns compute (R54 to R87): log products and the ⊕ fold, exact M-mode
products in an anchored window, the long accumulator, classes, poison, and where an exception is located. -/

namespace Sys2Proof.Machine

/-- An element as a stream delivers it: its code, its poison mark (R223), and whether it is a synthesised
zero (R209, which B1 has no code for). -/
structure Elem where
  code   : Nat
  poison : Bool
  pad    : Bool
  deriving DecidableEq, Repr

/-- A clean element. -/
def elemOf (code : Nat) : Elem := ⟨code, false, false⟩

/-- Where a product ran (R86, R87). -/
structure Loc where
  kt   : Nat
  load : Nat
  row  : Nat
  loom : Nat
  deriving DecidableEq, Repr

/-- The cell modes of R54; `exact` and `split` as R74 and R75. -/
inductive CellMode where
  | l
  | mWindowed
  | mExact
  | mSplit
  deriving DecidableEq, Repr

/-- R54's table: the mode follows from the formats and from Ledger. -/
def cellMode (fs fx : Fmt) (ledger : Bool) : CellMode :=
  if decide (12 < mWidth fs) || decide (12 < mWidth fx) then .mSplit
  else if ledger then .mExact
  else if fs.isLog && fx.isLog then .l
  else .mWindowed

/-- Products per handshake p in L-mode (R55); 1 in M-mode. -/
def prodsPer (mode : CellMode) (fs fx : Fmt) : Nat :=
  if mode != .l then 1
  else if fs = .b1 && fx = .b1 then 4
  else if (fs = .b1 || fs = .b2) && (fx = .b1 || fx = .b2) then 2
  else 1

/-- One partial result of one output element for one k-tile (R60, R72), with what its products were. -/
structure Part where
  p        : Nat := 0
  n        : Nat := 0
  s        : Int := 0
  anchor   : Option Int := none
  sticky   : Bool := false
  /-- Spilled products by the reduction offset of their element, so that their order is that of the k-tile (R73, R77). -/
  spills   : List (Nat × Dy) := []
  poison   : Bool := false
  sat      : Bool := false
  flush    : Bool := false
  firstNan : Option Loc := none
  firstInv : Option Loc := none
  firstPos : Option Loc := none
  firstNeg : Option Loc := none
  deriving DecidableEq, Repr

/-- Log-addition corrections (R59). -/
def corr (i : Nat) : Nat :=
  [248, 233, 218, 204, 191, 178, 166, 155, 144, 134, 125, 116, 108, 100, 93, 86,
   79, 73, 68, 63, 58, 53, 49, 45, 42, 38, 35, 33, 30, 28, 25, 23,
   21, 20, 18, 17, 15, 14, 13, 12, 11, 10, 9, 8, 8, 7, 7, 6,
   5, 5, 5, 4, 4, 4, 3, 3, 3, 3, 2, 2, 2, 2, 2, 2].getD i 0

/-- x ⊕ y on L16 magnitudes, 0 being zero, and whether it saturated (R58). -/
def ladd (x y : Nat) : Nat × Bool :=
  if x = 0 then (y, false)
  else if y = 0 then (x, false)
  else
    let big := max x y
    let d := big - min x y
    if 2048 ≤ d then (big, false)
    else
      let r := big + corr (d / 32)
      if 32767 < r then (32767, true) else (r, false)

/-- A B or L8 element in L-mode: none for NaR, otherwise sign and L16 offset index, or zero. -/
inductive LOp where
  | nar
  | zero
  | val (neg : Bool) (e : Int)
  deriving DecidableEq, Repr

/-- Decode an element for L-mode; a synthesised zero is zero in every format (R106, R209). -/
def lDecode (f : Fmt) (x : Elem) : LOp :=
  let (neg, i) := splitCode f x.code
  if x.pad then .zero
  else if f = .b1 then .val neg 0
  else if i = 0 then (if neg then .nar else .zero)
  else .val neg (eighthIndex f i)

/-- Fold one L-mode product into a column's partial (R57, R60, R64). -/
def lFold (fs fx : Fmt) (loc : Loc) (w x : Elem) (a : Part) : Part :=
  let a := { a with poison := a.poison || w.poison || x.poison }
  match lDecode fs w, lDecode fx x with
  | .nar, _ => { a with firstNan := a.firstNan <|> some loc }
  | _, .nar => { a with firstNan := a.firstNan <|> some loc }
  | .val sw ew, .val sx ex =>
    let m := (16384 + 32 * (ew + ex)).toNat
    if sw = sx then let (r, t) := ladd a.p m; { a with p := r, sat := a.sat || t }
    else let (r, t) := ladd a.n m; { a with n := r, sat := a.sat || t }
  | _, _ => a

/-- An element decoded as a number before scale; padding is a zero (R106). -/
def elemNum (f : Fmt) (flush : Bool) (x : Elem) : Num :=
  if x.pad then numFin false dyZero else decode f flush x.code

/-- An element decoded as an M-mode operand (R65); padding is a zero. -/
def elemOp (f : Fmt) (flush : Bool) (x : Elem) : MOp :=
  if x.pad then ⟨false, 0, 0, mWidth f⟩ else mDecode f flush x.code

/-- Record a product's class from the sideband (R68, R82) and its poison (R85). -/
def classFold (fs fx : Fmt) (flush : Bool) (loc : Loc) (w x : Elem) (a : Part) : Part :=
  let nw := elemNum fs flush w
  let nx := elemNum fx flush x
  let fl := flush && ((!w.pad && readFlushes fs w.code) || (!x.pad && readFlushes fx x.code))
  let a := { a with poison := a.poison || w.poison || x.poison, flush := a.flush || fl }
  let neg := nw.neg != nx.neg
  match nw.cls, nx.cls with
  | .nan, _ => { a with firstNan := a.firstNan <|> some loc }
  | _, .nan => { a with firstNan := a.firstNan <|> some loc }
  | .finite, .finite => a
  | cw, cx =>
    if (cw == .finite && dyIsZero nw.v) || (cx == .finite && dyIsZero nx.v) then
      { a with firstInv := a.firstInv <|> some loc }
    else if neg then { a with firstNeg := a.firstNeg <|> some loc }
    else { a with firstPos := a.firstPos <|> some loc }

/-- Is the pair's product finite and nonzero, so that it takes part in the anchor (R69)? -/
def finiteNonzero (fs fx : Fmt) (flush : Bool) (w x : Elem) : Bool :=
  (elemNum fs flush w).cls == .finite && (elemNum fx flush x).cls == .finite &&
    (elemOp fs flush w).m != 0 && (elemOp fx flush x).m != 0

/-- The pieces of an operand in split mode (R75): piece j has bits [8j+7:8j], exponent E + 8j, width 8. -/
def pieceOf (o : MOp) (j : Nat) : MOp := ⟨o.neg, o.m / 2 ^ (8 * j) % 256, o.e + 8 * j, 8⟩

/-- Number of pieces ⌈w/8⌉ of a format in split mode (R75). -/
def pieces (f : Fmt) : Nat := ceilDiv (mWidth f) 8

/-- The operand pair that one pass multiplies: the whole operands, or the pieces of pass number
j_s × n_x + j_x (R75). -/
def passOps (mode : CellMode) (fs fx : Fmt) (flush : Bool) (pass : Nat) (w x : Elem) : MOp × MOp :=
  let ow := elemOp fs flush w
  let ox := elemOp fx flush x
  if mode = .mSplit then (pieceOf ow (pass / pieces fx), pieceOf ox (pass % pieces fx)) else (ow, ox)

/-- Passes of an operation (R75): one unless split. -/
def passCount (mode : CellMode) (fs fx : Fmt) : Nat :=
  if mode = .mSplit then pieces fs * pieces fx else 1

/-- The anchor of R69 over the element pairs of a k-tile. -/
def anchorOf (ops : List (MOp × MOp)) : Option Int :=
  ops.foldl (fun a (o : MOp × MOp) =>
    if o.1.m = 0 || o.2.m = 0 then a
    else
      let b := o.1.e + o.2.e + (o.1.w : Int) + o.2.w
      some (match a with | none => b | some c => max b c)) none

/-- Add the finite nonzero product of element o to a column's window sum (R71, R72), or spill it (R74). -/
def mFold (exact : Bool) (o : Nat) (ow ox : MOp) (a : Part) : Part :=
  match a.anchor with
  | none => a
  | some A =>
    let mag := ow.m * ox.m
    let neg := ow.neg != ox.neg
    let e := ow.e + ox.e
    let sh := e - (A - 80)
    let signed := fun (q : Nat) => if neg then -(q : Int) else (q : Int)
    if mag = 0 then a
    else if 0 ≤ sh then { a with s := a.s + signed (mag * 2 ^ sh.toNat) }
    else if exact then { a with spills := mapSet a.spills o ⟨signed mag, e⟩ }
    else
      let d := 2 ^ (-sh).toNat
      { a with s := a.s + signed (mag / d), sticky := a.sticky || mag % d != 0 }

/-- The accumulator of one output element (R61, R76): an L-mode pair or a long accumulator in units of
2^−368, with the classes met so far. -/
structure Acc where
  p        : Nat := 0
  n        : Nat := 0
  v        : Int := 0
  sticky   : Bool := false
  sat      : Bool := false
  poison   : Bool := false
  flush    : Bool := false
  spilled  : Nat := 0
  firstNan : Option Loc := none
  firstInv : Option Loc := none
  firstPos : Option Loc := none
  firstNeg : Option Loc := none
  deriving DecidableEq, Repr

/-- Add an exact value to a long accumulator (R77). -/
def longAdd (a : Acc) (x : Dy) : Acc :=
  let (q, lost) := dyTrunc x (-368)
  let r := a.v + q
  let lim : Int := (2 ^ 639 : Nat)
  if lim ≤ r then { a with v := lim - 1, sticky := a.sticky || lost, sat := true }
  else if r ≤ -lim then { a with v := 1 - lim, sticky := a.sticky || lost, sat := true }
  else { a with v := r, sticky := a.sticky || lost }

/-- Fold one k-tile partial into its element's accumulator (R61, R77). -/
def accFold (lmode : Bool) (a : Acc) (t : Part) : Acc :=
  let a := { a with
    poison := a.poison || t.poison, flush := a.flush || t.flush, sat := a.sat || t.sat,
    firstNan := a.firstNan <|> t.firstNan, firstInv := a.firstInv <|> t.firstInv,
    firstPos := a.firstPos <|> t.firstPos, firstNeg := a.firstNeg <|> t.firstNeg }
  if lmode then
    let (p, sp) := ladd a.p t.p
    let (n, sn) := ladd a.n t.n
    { a with p := p, n := n, sat := a.sat || sp || sn }
  else
    let a := match t.anchor with
      | none => a
      | some A => longAdd a ⟨t.s, A - 80⟩
    let a := t.spills.foldl (fun (a : Acc) x => longAdd a x.2) a
    { a with sticky := a.sticky || t.sticky, spilled := a.spilled + t.spills.length }

/-- Order of locations (R87). -/
def locBefore (a b : Loc) : Bool :=
  decide (a.kt < b.kt ∨ (a.kt = b.kt ∧ (a.load < b.load ∨ (a.load = b.load ∧ a.row < b.row))))

/-- The location that an element's invalid product has (R87): the first 0 × ∞, or the first infinite
product whose sign is opposite to that of the element's first infinite product. An element that has a NaN product as well has its
invalid product recorded and located all the same: the first row of R83 records nothing, R86 and R91 set INV (DEDUCED, log 64). -/
def invalidLoc (a : Acc) : Option Loc :=
  let opp := match a.firstPos, a.firstNeg with
    | some x, some y => some (if locBefore x y then y else x)
    | _, _ => none
  match a.firstInv, opp with
  | some x, some y => some (if locBefore y x then y else x)
  | some x, none => some x
  | none, o => o

/-- The element class of R83. -/
def elemClass (a : Acc) : Cls :=
  if a.firstNan.isSome || a.firstInv.isSome then .nan
  else match a.firstPos, a.firstNeg with
    | some _, some _ => .nan
    | some _, none => .posInf
    | none, some _ => .negInf
    | none, none => .finite

/-- The L16 result of an L-mode element (R62, R64), and whether it flushed. -/
def lResult (a : Acc) : Nat × Bool :=
  if a.firstNan.isSome then (0x8000, false)
  else
    let v := dySub (l16Mag a.p) (l16Mag a.n)
    if dyIsZero v then (0, false)
    else
      let m := l16OfDy v
      if m < 1 then (0, true)
      else ((if dyIsNeg v then 0x8000 else 0) + (min m 32767).toNat, false)

/-- The exact value an element hands to the output stage before scales (R62, R78), with its σ. -/
def elemValue (lmode : Bool) (a : Acc) : Dy × Bool :=
  if lmode then
    let (c, _) := lResult a
    let mag := l16Mag (c % 2 ^ 15)
    (if c.testBit 15 then dyNeg mag else mag, false)
  else (⟨a.v, -368⟩, a.sticky)

end Sys2Proof.Machine
end

