-- ==== Sys2Proof/Machine/State.lean ====
section
/-! DEFINITION. The state of the module as plain data: every register, memory, queue, mode and pin the spec
names, the queue of waiting commands, and the state right after reset. Records the spec lays out bit by bit
are held as bit vectors of their size. A list of pairs keyed by a number is kept in strictly rising key order
and lists no entry that equals what an unlisted key reads as. -/

namespace Sys2Proof.Machine

/-! ### Pins, supplies, SMBus (17, 14) -/

/-- Supplies, management pins and the SMBus side (R446, R471, R515 to R520). -/
structure PinSt where
  /-- Input voltage, 10 mV units (R519). -/
  vin : BitVec 16
  /-- VAUX is up (R446). -/
  vauxUp : Bool
  /-- PWR_GOOD is high. -/
  pwrGood : Bool
  /-- PERST_N is high. -/
  perstN : Bool
  /-- MOD_RESET_N is high. -/
  modResetN : Bool
  /-- RAILS_ON (R519). -/
  railsOn : Bool
  /-- The ramp that PWR_GOOD or a restarting reset began is under way (R524). -/
  ramping : Bool
  /-- RAIL_FAULT (R447, R519). -/
  railFault : Bool
  /-- TRIP: the trip latch, which holds THERM_TRIP_N asserted (R471). -/
  trip : Bool
  /-- A restart after a trip waits at step 1 of R439 for every sensor to read below 100 °C (R471). -/
  hotWait : Bool
  /-- SLOT_ID as sampled when VAUX came up (R517). -/
  slotId : BitVec 6
  /-- ALERTS as last evaluated (R519). -/
  alerts : BitVec 5
  /-- ALERT_N is asserted (R520). -/
  alert : Bool
  /-- PIN: input power in W (R519). -/
  pinWatts : BitVec 16
  /-- TJ: junction temperature in 1/16 °C (R469, R519). -/
  tj : BitVec 16
  /-- TJ_MAX since PWR_GOOD was last asserted (R519). -/
  tjMax : BitVec 16
  /-- The last readings of the 144 sensors, 1/16 °C (R469). -/
  sensors : List (BitVec 16)
  /-- The boundary scan instruction (R511). -/
  tap : ScanInstr
  /-- The bytes the SMBus last returned (R518, R520; the model's output, log 10). -/
  smbusOut : List Byte
  deriving DecidableEq, Repr

/-! ### Clock and timebase (13, 14) -/

/-- Clocks, the clock monitor, start-up and the timebase (R439, R442, R443, R465 to R468). -/
structure ClockSt where
  /-- Periods of the driving clock since the timebase last started (R442). -/
  periods : Nat
  /-- The internal oscillator runs, so the timebase counts (R439 step 1). -/
  running : Bool
  /-- ON_OSC (R432). -/
  onOsc : Bool
  /-- The crystal has been declared stable since the last start (R466). -/
  stable : Bool
  /-- The maximum t_XTAL passed without a stable crystal (R441). -/
  missed : Bool
  /-- Consecutive windows without a failure (R466). -/
  goodWindows : Nat
  /-- The kind of the monitor's last failure: 0 deviation, 1 silence (R466). -/
  lastFail : Nat
  /-- A failover whose event waits for the Foreman to start: 0 deviation, 1 silence (R441, R467). -/
  dueEvent : Option Nat
  /-- Step of R439 in progress: 0 held before step 1, 1 to 6, 7 done. -/
  startStep : Nat
  /-- TIMEBASE [447:416] latched by the last 32-bit read of [415:384], until it is read (R443). -/
  latch : Option (BitVec 32)
  deriving DecidableEq, Repr

/-! ### Identity, status and fuses (13, 15) -/

/-- The identity and status page's own fields and the module configuration (R231, R252, R432). -/
structure IdentSt where
  stage : Nat
  resetCause : Nat
  fwVersion : BitVec 32
  fabricAddr : BitVec 16
  chFail : BitVec 64
  jobStep : BitVec 48
  committed : BitVec 32
  nmiClock : Bool
  /-- Vector 0 of a latched failover is still to be signalled (R445). -/
  nmiDue : Bool
  dmaBase : BitVec 64
  imageAddr : BitVec 64
  /-- IMAGE_LEN of the last image FW_LOAD named, which the cause 5 restart loads again (R405). -/
  imageLen : BitVec 32
  /-- The rate the channels were last trained at, MT/s (R231). -/
  rate : Nat
  /-- The rate the next training uses (R231). -/
  nextRate : Nat
  ceLimit : BitVec 32
  /-- SVN of the running or verified image (R485). -/
  svn : BitVec 8
  /-- LC_MASK of the running or verified image (R481, R492). -/
  lcMask : BitVec 5
  /-- FW_VERSION of the measured image (R485). -/
  imageVersion : BitVec 32
  /-- The measurement register, written once per reset (R479). -/
  measurement : Option (BitVec 384)
  /-- A verified image waits for the Foreman to start (R439 step 7). -/
  verified : Bool
  deriving DecidableEq, Repr

/-- The fuse array (R476). -/
structure FuseSt where
  serial : BitVec 128
  rootHash : BitVec 384
  rollback : Nat
  /-- Life-cycle log: the slots used, oldest first, with their completion fuses (R476, R487). -/
  lcLog : List (Nat × Bool)
  identityKey : BitVec 384
  keyDestroyed : Bool
  cert : List Byte
  order512 : Bool
  revId : BitVec 16
  deriving DecidableEq, Repr

/-! ### PCIe, mailboxes, events (13, 12) -/

/-- The host link (R428 to R437), with host memory as its environment (log 5). -/
structure PcieSt where
  linkUp : Bool
  busMaster : Bool
  memDecode : Bool
  d3hot : Bool
  /-- BAR2 size as an exponent of 2 (R433). -/
  bar2Log2 : Nat
  /-- The MSI-X table: address [63:0], data [95:64], vector control [127:96]. Unlisted: masked, zero (log 11). -/
  msix : List (Nat × BitVec 128)
  /-- The MSI-X pending-bit array. -/
  pba : BitVec 64
  /-- Vectors signalled, oldest first (the model's output, log 10). -/
  signals : List Nat
  /-- The data of the last completion given to the host (the model's output, log 10). -/
  readOut : List Byte
  /-- The EP bit of that completion (R433). -/
  readEp : Bool
  /-- BAR2 writes discarded and counted (R433). -/
  bar2Discards : Nat
  /-- Host memory by PCIe address; unlisted bytes read 0 (log 5). -/
  hostMem : List Host.Cell
  deriving DecidableEq, Repr

/-- A command that a mailbox still runs (R393). -/
inductive InFlight where
  /-- LIFECYCLE waiting for its wipe (R491). -/
  | lifecycle
  /-- RESTORE waiting for a pull or for pages of the buddy (R381). -/
  | restore
  /-- ROUTE_WRITE waiting for a RESTORE that started before it (R400). -/
  | routes
  deriving DecidableEq, Repr

/-- A mailbox (R391 to R393). -/
structure Mailbox where
  /-- STATE: 0 IDLE, 1 BUSY, 2 DONE. -/
  state : Nat
  ignored : Nat
  /-- Header and payload bytes, by window offset; unlisted bytes are 0. -/
  window : List Host.Cell
  inflight : Option InFlight
  deriving DecidableEq, Repr

/-- Event queue control (R420, R421). -/
structure EvqSt where
  base : BitVec 64
  log2n : BitVec 5
  enable : Bool
  tail : BitVec 32
  head : BitVec 32
  lost : BitVec 32
  vecmap : BitVec 128
  /-- Losses not yet reported by EV_EVQ_OVERFLOW (R421). -/
  unreported : Nat
  /-- Timebase since which the queue has stayed full without a HEAD write (R374). -/
  fullSince : Option Nat
  deriving DecidableEq, Repr

/-! ### Observation (16) -/

/-- Counters, snapshot window and trace (R495 to R508). -/
structure ObsSt where
  counters : List (Nat × BitVec 64)
  /-- The snapshot window, by byte offset in it (R499). -/
  snapshot : List (Nat × BitVec 64)
  mask : BitVec 64
  pages : BitVec 32
  wr : BitVec 64
  rdBase : BitVec 64
  dropped : BitVec 64
  /-- Ring slots holding a record (log 9). -/
  ring : List (Nat × BitVec 256)
  /-- View slots' latches (R508). -/
  latch : List (Nat × BitVec 256)
  /-- Records overwritten since the last EV_TRACE_WRAP (R505). -/
  wrapped : Nat
  /-- Timebase of the last EV_TRACE_WRAP (R505). -/
  wrapAt : Option Nat
  /-- The second of the timebase and the records written in it (R504). -/
  rateSecond : Nat
  rateCount : Nat
  deriving DecidableEq, Repr

/-! ### Memory (07) -/

/-- Stores, LPDDR6 and their error handling (R229 to R255). -/
structure MemSt where
  /-- Data bytes by physical byte (R239, R234); unlisted bytes are 0 (R253). -/
  data : List Host.Cell
  /-- Metadata of words, two bytes per 16-byte word (R243); unlisted bytes are 0 (R253). -/
  metadata : List Host.Cell
  /-- Memory error records, oldest first, at most 256 (R251). -/
  ring : List (BitVec 128)
  /-- Records ever logged since the last reset; record n has ring index n mod 256. -/
  logged : Nat
  /-- Per unit: times of its correctable records in the last second (R252). -/
  ceTimes : List (Nat × List Nat)
  /-- Units whose count stands above CE_LIMIT (R252). -/
  ceOver : List Nat
  /-- Units that have raised EV_MEM_UNCORRECTABLE in this step or gap (R252). -/
  ueRaised : List Nat
  /-- Words of the page map whose damage is logged (R237). -/
  mapDamage : List Nat
  /-- A wipe runs (R254). -/
  wiping : Bool
  /-- Per unit: the next word its scrubber reads, as a word number (R250). -/
  scrubPos : List (Nat × Nat)
  deriving DecidableEq, Repr

/-! ### Fabric (10) -/

/-- A frame sent and not yet acknowledged (R314). -/
structure SentFrame where
  frame   : Frame
  vc      : Nat
  replays : Nat
  deriving DecidableEq, Repr

/-- A fabric port (R310, R314, R315). -/
structure PortSt where
  /-- 0 DOWN, 1 TRAINING, 2 UP. -/
  state    : Nat
  /-- Credits held, VC0 to VC3, in lines. -/
  credits  : List Nat
  /-- Credits owed to the peer, VC0 to VC3. -/
  owed     : List Nat
  /-- LSEQ of the next frame sent. -/
  nextSeq  : BitVec 32
  /-- Last LSEQ received in order. -/
  lastIn   : BitVec 32
  unacked  : List SentFrame
  /-- A frame failed its CRC: nothing is accepted until the replay (R314). -/
  awaiting : Bool
  /-- The virtual channel last served in the round robin (R315). -/
  lastVc   : Nat
  /-- The port was UP and went DOWN under R314, so EV_LINK_UP follows. -/
  wasUp    : Bool
  /-- The frames that the last sending or replay put on the link, in order (the model's output, log 10). -/
  wire     : List Frame
  deriving DecidableEq, Repr

/-- A frame that waits to be sent, with the port its slot choice gave it, if made (R318, R320). -/
structure TxFrame where
  frame : Frame
  port  : Option Nat
  deriving DecidableEq, Repr

/-- A communication group record (R323). -/
structure GroupRec where
  header  : BitVec 256
  members : List (BitVec 64)
  deriving DecidableEq, Repr

/-- The lines of one message from one source (R321, R537). -/
structure RxMsg where
  src   : Nat
  group : Nat
  phase : Nat
  op    : Nat
  /-- Lines by line offset. -/
  lines : List (Nat × Line)
  /-- Offsets of lines marked in PMAP. -/
  marks : List Nat
  /-- TAG values seen, oldest first, without repeats. -/
  tags  : List Nat
  /-- Lines of the whole message, once its last frame has arrived. -/
  total : Option Nat
  /-- An operation or a merge has taken it. -/
  used  : Bool
  deriving DecidableEq, Repr

/-- An all-reduce of whole units among a group, two phases of OP one after the other: column partials, merge records or unsteered
amax records (R333, R336, R533, R537). -/
structure Xchg where
  group  : Nat
  /-- The first of its phases: 2, 4 or 6. -/
  phase  : Nat
  /-- OP[27:0]. -/
  op     : Nat
  /-- The module's own units, as bytes. -/
  units  : List (List Byte)
  /-- The units that this module owns, reduced, once every contribution has arrived. -/
  own    : Option (List (List Byte))
  /-- Every unit reduced, once it is complete. -/
  result : Option (List (List Byte))
  deriving DecidableEq, Repr

/-- A stage queue (R340 to R342). -/
structure StageQueue where
  record   : BitVec 256
  /-- Producer: sends begun. -/
  begun    : Nat
  /-- Producer: latest released count received. -/
  received : BitVec 32
  /-- Consumer: slots released. -/
  released : Nat
  /-- Consumer: sends whose reading operation has completed while an earlier send's has not. -/
  readOut  : List Nat
  /-- Consumer: per send n, the lines arrived and the last line once known. -/
  filling  : List (Nat × (List Nat × Option Nat))
  deriving DecidableEq, Repr

/-- The fabric side of the module (R308 to R344). -/
structure FabSt where
  ports      : List (Nat × PortSt)
  groups     : List (Nat × GroupRec)
  routes     : List (Nat × BitVec 64)
  /-- Frames waiting to be sent, oldest first. -/
  txq        : List TxFrame
  /-- Destinations without a usable slot: since when, and when EV_NO_ROUTE was raised. -/
  noRoute    : List (Nat × (Nat × Option Nat))
  rx         : List RxMsg
  /-- Time of the last frame of any type from each source (R373). -/
  lastFrame  : List (Nat × Nat)
  queues     : List (Nat × StageQueue)
  /-- Gather slots: tag of each member (R337). -/
  gather     : List (Nat × List (Nat × Nat))
  /-- Gather slots whose forward gather is kept for the backward pass (R12). -/
  held       : List Nat
  /-- Gathers whose EV_STALE_GATHER has been raised in this step. -/
  stale      : List Nat
  /-- Votes for the step in progress, the module's own among them once sent: address, bit (R335). -/
  votes      : List (Nat × Bool)
  /-- Barrier frames received: last OFFSET and TAG of each source (R360). -/
  barrier    : List (Nat × (Nat × BitVec 32))
  /-- Latest step, low 32 bits, for which a SECURED barrier frame has arrived from each source (R361). -/
  securedOf  : List (Nat × BitVec 32)
  /-- OFFSET of the REPLAY frame that has arrived from each source and has not been used yet (R385). -/
  replays    : List (Nat × Nat)
  /-- The module's own latest barrier frame: OFFSET and TAG. -/
  ownBarrier : Option (Nat × BitVec 32)
  /-- All-reduces of units under way in the step, and their results. -/
  merges     : List Xchg
  deriving DecidableEq, Repr

/-! ### Scrivener, buddy, restore (11) -/

/-- A copy of one page: data and metadata bytes by offset in the page, zero bytes unlisted. -/
structure PageImage where
  data     : List Host.Cell
  metadata : List Host.Cell
  deriving DecidableEq, Repr

/-- A staging copy of a page or of a row (R363). -/
structure StageCopy where
  label : BitVec 32
  /-- Virtual page. -/
  page  : Nat
  /-- Row copies: address and bytes of the row's records; a page copy has none. -/
  row   : Option (Nat × Nat)
  image : PageImage
  deriving DecidableEq, Repr

/-- Lines of one seal item as they arrive (R368, R381). -/
structure SealItem where
  kind  : Nat
  item  : Nat
  lines : List (Nat × Line)
  marks : List Nat
  total : Option Nat
  deriving DecidableEq, Repr

/-- The origin's side of sealing (R356 to R366). -/
structure SealSt where
  /-- 0 none, 1 shipping, 2 shipped and not yet secured, 3 secured. -/
  phase      : Nat
  gen        : BitVec 32
  /-- Items of the generation in shipment that the buddy has not acknowledged: kind and item number. -/
  unacked    : List (Nat × Nat)
  copies     : List StageCopy
  /-- Seal records held in staging, by generation (R366). -/
  records    : List (Nat × List Byte)
  /-- Pages left uncopied, whole or in a row, with the generation that was not copied (R365). -/
  uncopied   : List (Nat × Nat)
  /-- EV_SEAL_STAGING_FULL was raised in the step. -/
  fullRaised : Bool
  /-- Protected pages written in the step as pages (R356). -/
  dirtyPages : List Nat
  /-- Row addresses and sizes written by the mill path in the step (R356). -/
  dirtyRows  : List (Nat × Nat)
  /-- Protected pages a scrub found damaged, to be fetched after the next barrier (R378). -/
  repair     : List Nat
  /-- RESERVE_PAGES as the buddy's reply reported it (R351). -/
  reserve    : Option Nat
  /-- Last generation sealed locally. -/
  lastSealed : Option (BitVec 32)
  /-- A damaged page's fetch from the buddy or a restore's pull is in progress: lines by item. -/
  incoming   : List SealItem
  /-- BUDDY has changed since the last generation was shipped in full (R385). -/
  newBuddy   : Bool
  deriving DecidableEq, Repr

/-- The buddy's side (R367 to R370). -/
structure BuddySt where
  /-- Origin whose image it is (R367). -/
  owner       : Option Nat
  pages       : List (Nat × PageImage)
  record      : List Byte
  /-- S, once a generation has been flipped in for the present origin. -/
  s           : Option (BitVec 32)
  /-- TAG of the last RESERVE frame of the origin. -/
  reserveTag  : Option (BitVec 32)
  shadow      : List SealItem
  /-- Item count and generation of the marker, once it has arrived. -/
  marker      : Option Nat
  shadowGen   : Option (BitVec 32)
  /-- Replaced pages (none: the page was not in the image before) and record of the generation before S. -/
  retained    : Option (List (Nat × Option PageImage) × List Byte)
  /-- Spare and generation named by PULL_SERVE (R370). -/
  serve       : Option (Nat × BitVec 32)
  deriving DecidableEq, Repr

/-- A restore in progress (R379 to R385). -/
structure RestoreSt where
  pull    : Bool
  rank    : BitVec 24
  target  : BitVec 32
  cursor  : BitVec 48
  /-- The mailbox that carries the RESTORE, or none for the replay of an invalid step (R376). -/
  mailbox : Option Nat
  /-- Pages still to come from the buddy (local restore). -/
  wanted  : List Nat
  /-- Job state before the command (R371). -/
  prior   : Nat
  /-- Items a pull counts, once PULLED has arrived. -/
  expected : Option Nat
  deriving DecidableEq, Repr

/-! ### The job (12, 11, 09, 08, 04) -/

/-- A tensor: descriptor (R408), scale history entry (R355) and tensor mill state (R284). -/
structure Tensor where
  desc : BitVec 512
  hist : BitVec 384
  mill : BitVec 128
  deriving DecidableEq, Repr

/-- A loaded plan (R411 to R416). -/
structure Plan where
  entries  : List (BitVec 2048)
  admitted : Bool
  deadline : Nat
  energy   : Nat
  /-- Guaranteed time (ns) and estimated energy (mJ) at each operating point, once admitted. -/
  guar     : List Nat
  est      : List Nat
  deriving DecidableEq, Repr

/-- A steered layer: descriptor (R165), layer state record (R168), block records (R169), outlier list
(R170), and the pins in force. -/
structure SteerLayer where
  /-- Its place in the array JOB_ADMIT read (R495). -/
  index    : Nat
  desc     : BitVec 384
  layer    : BitVec 2048
  blocks   : List (BitVec 64)
  outliers : List (BitVec 32)
  pinWt    : Nat
  pinAct   : Nat
  /-- ΔT of rungs 1, 2 and 3 in ns, found at JOB_ADMIT (R151). -/
  extra    : List Nat
  deriving DecidableEq, Repr

/-- An accepted dispatch that has not begun (R417). -/
structure Dispatch where
  plan   : Nat
  step   : BitVec 48
  cursor : BitVec 48
  upd    : List (BitVec 512)
  deriving DecidableEq, Repr

/-- A change waiting for a step boundary (R401). -/
inductive BoundaryCmd where
  | jobParam (valid : Nat) (gexp : BitVec 8) (growInt : BitVec 32)
  | tensorSet (tensor : BitVec 32) (action : Nat) (value : BitVec 16)
  | optset (set : Nat) (values : BitVec 256)
  | pin (layer : Nat) (wt act : Nat)
  | overrideSet (unit : Nat) (key : BitVec 128)
  | overrideRemove (unit : Nat)
  | opSet (op : Nat) (force : Bool)
  | powerCap (watts : Nat) (force : Bool)
  deriving DecidableEq, Repr

/-- The job (R371, R403 to R419). -/
structure JobSt where
  /-- 0 NONE, 1 SETUP, 2 RUNNING, 3 HOLD, 4 RESTORING. -/
  state     : Nat
  /-- HOLD_CAUSE (R406). -/
  cause     : Nat
  /-- Barrier frames carry HOLDING (R374). -/
  holding   : Bool
  /-- The host was lost during the step in progress: HOLD follows its barrier frame (R374). -/
  holdDue   : Bool
  /-- The cause of a HOLD that follows the barrier of the step in progress, 0 for none (R277, R299). -/
  dueHold   : Nat
  seed      : BitVec 64
  rank      : BitVec 24
  kind      : Nat
  gather    : Nat
  barrier   : Nat
  fbAllow   : Nat
  t0        : BitVec 48
  /-- Job update state (R279). -/
  update    : BitVec 128
  spillPages : Nat
  /-- The seal descriptor (R349). -/
  sealDesc  : BitVec 256
  tensors   : List (Nat × Tensor)
  optsets   : List (Nat × BitVec 256)
  waybills  : List (Nat × List Byte)
  /-- Waybill images in the guild stores, key 2^16 × guild + waybill (R203). -/
  images    : List (Nat × List Byte)
  plans     : List (Nat × Plan)
  buffers   : List (Nat × BitVec 64)
  steer     : List SteerLayer
  overrides : List (Nat × BitVec 128)
  due       : List BoundaryCmd
  dispatches : List Dispatch
  admitted  : Bool
  /-- L of R417: the last step begun since set-up or the last restore, else T0 or the restored STEP. -/
  lastBegun : BitVec 48
  /-- The last cursor dispatched (R302). -/
  cursor    : BitVec 48
  /-- Draw counters by unit and class, key 4 × unit + class (R291). -/
  draws     : List (Nat × BitVec 64)
  /-- Step reports held, newest last, at most 16 (R419). -/
  reports   : List (BitVec 2048)
  /-- Fault log of the last step that ended (R226, R407). -/
  faults    : List (BitVec 256)
  /-- Draw state header of the last seal (R303, R407). -/
  drawHead  : BitVec 512
  /-- The last update descriptor of each matrix and embedding tensor: its shape, for the age sweep and for section 6
  of the seal record (R260, R281; log 16). -/
  shapes    : List (Nat × BitVec 512)
  /-- Bench columns reserved for each layer's outlier lane (R119). -/
  benches   : List (Nat × Nat)
  /-- Product of operand scales that each L16 tensor inherited when it was last written: the two bfloat16 codes (R23, R117). -/
  inherited : List (Nat × (Nat × Nat))
  /-- The c and r arrays of each matrix shard as they stood when a descriptor first named it (R286; log 89). -/
  firstStats : List (Nat × List Byte)
  /-- Section 6's blocks of a restored record whose shards no descriptor has named yet (R380; log 89). -/
  sealedStats : List (Nat × List Byte)
  deriving DecidableEq, Repr

/-! ### Power, heat, gates (14) -/

/-- Operating point, Purse, thermal limit and gate tree (R446 to R463). Operating points: 0 Low, 1 Nom, 2 High. -/
structure PowerSt where
  opHost     : Nat
  opPurse    : Nat
  opThermal  : Nat
  /-- The operating point in force. -/
  opNow      : Nat
  /-- VCORE ramps towards opNow, so its rates do not hold yet (R449). -/
  ramp       : Bool
  cap        : Nat
  /-- A forced change is in force (R416). -/
  forced     : Bool
  pausePurse : Bool
  pauseThermal : Bool
  /-- The first Purse pause of the step has raised its event (R457). -/
  pauseRaised : Bool
  /-- The thermal limit is in force (R470). -/
  throttle   : Bool
  /-- Timebase of the last thermal step, while T_j stays at or above 100 °C. -/
  hotSince   : Option Nat
  /-- Timebase since which T_j has stayed at or below 95 °C. -/
  coolSince  : Option Nat
  /-- ρ as a ratio of energies in µJ (R454). -/
  rhoNum     : Nat
  rhoDen     : Nat
  /-- E_m and E_c of the last windows, newest first, at most 16, in µJ. -/
  windows    : List (Nat × Nat)
  /-- Events counted since the last reconciliation window, key 256 × class + unit (R451). -/
  events     : List (Nat × Nat)
  /-- Timebase of the last reconciliation window. -/
  windowAt   : Nat
  /-- Counter 0xEB0 when the step in progress began. -/
  energyAtBegin : Nat
  /-- Gate states other than on, key 1024 × level + index (R459, R460). -/
  gates      : List (Nat × Nat)
  deriving DecidableEq, Repr

/-! ### Looms, combiners, carters, vector units (02, 03, 05, 06) -/

/-- A unit of loom work (R96, R183): in OS the whole tile, with kt 0. Tiles of the outlier lane (R120) are numbered after
the operation's own. -/
structure UnitId where
  op   : Nat
  tile : Nat
  kt   : Nat
  pass : Nat
  deriving DecidableEq, Repr

/-- An operation that has started (R412), with what it read at its admission (R108, R120, R128). -/
structure OpRun where
  /-- The entry, its formats replaced by the steered ones. -/
  entry    : BitVec 2048
  /-- Scales of the stationary, streaming and output tensors, bfloat16. -/
  scaleS   : Nat
  scaleX   : Nat
  scaleO   : Nat
  /-- Listed outlier channels in force, increasing. -/
  outliers : List Nat
  /-- Output tiles converted (R197). -/
  tiles    : Nat
  /-- Output tiles converted at each home loom, by its place in the loom range (R115). -/
  conv     : List (Nat × Nat)
  /-- Strict flag word (R179). -/
  strict   : Nat
  deriving DecidableEq, Repr

/-- A load in a loom's shadow or active registers (R100, R102). -/
structure LoadSt where
  unit  : UnitId
  kt    : Nat
  /-- Pass of split mode: the unit's in WS and IS, each in turn in OS (R75, R98). -/
  pass  : Nat
  load  : Nat
  /-- Load wavefronts that have entered. -/
  waves : Nat
  deriving DecidableEq, Repr

/-- A loom (R92, R100, R101). -/
structure LoomSt where
  shadow : Option LoadSt
  active : Option LoadSt
  /-- Progress of each cell in the active load, key 64 × row + column: 8 × vector + nibbles taken. -/
  cells  : List (Nat × Nat)
  /-- Partials of the k-tile in progress, key 64 × vector + column. -/
  parts  : List (Nat × Part)
  /-- A finished unit's partials, on their way to the combiner (R188, R190). -/
  out    : Option (UnitId × List (Nat × Part))
  /-- Streaming ended before the load in the shadow registers was complete, and no swap has followed (R101). -/
  loadWait : Bool
  /-- The reorder buffer could not hold the partials in `out` when they arrived (R190). -/
  foldWait : Bool
  deriving DecidableEq, Repr

/-- A unit that a loom has taken and whose partial has not been accepted (R184, R191). -/
structure TakenUnit where
  unit   : UnitId
  loom   : Nat
  /-- 0 own workshop, 1 sibling, 2 neighbouring guild. -/
  stolen : Nat
  /-- Timebase when it was taken. -/
  since  : Nat
  deriving DecidableEq, Repr

/-- An open output tile in its combiner, or in the foot accumulators of its home loom (R98, R188 to R190). -/
structure TileSt where
  /-- Ordinal of the lowest outstanding unit. -/
  next  : Nat
  /-- Timebase when that unit became the lowest. -/
  since : Nat
  /-- Accumulators, key 64 × vector + column. -/
  acc   : List (Nat × Acc)
  /-- Partials held in the reorder buffer, by unit ordinal. -/
  held  : List (Nat × List (Nat × Part))
  /-- Elements the output stage has converted. -/
  conv  : Nat
  /-- Flags and first bias exception of the output stage (R86, R114). -/
  flags : Nat
  biasAt : Option (Nat × Nat)
  /-- The inputs of a sampled tile's units as they ran: unit, stream elements and stationary elements by index of their runs
  (R143). -/
  inputs : List (UnitId × List (Nat × Elem) × List (Nat × Elem))
  deriving DecidableEq, Repr

/-- What a GATHER set G to (R210). -/
inductive GVal where
  | off (v : Int)
  | pad
  | unmapped (addr : Nat)
  | poison (addr : Nat)
  | bad (addr : Nat)
  deriving DecidableEq, Repr

/-- A run of a waybill in a slot (R199, R201, R202, R216), or a bias or outlier lane stream of slot 3 (R111, R120). -/
structure Run where
  op     : Nat
  unit   : Option UnitId
  img    : List Byte
  /-- The slot arm block, its base formats replaced where a steered operand is fed. -/
  arm    : BitVec 320
  /-- Positions [start, end) of the run, in order; an index counts along them. -/
  ranges : List (Nat × Nat)
  /-- Next index to request. -/
  rd     : Nat
  /-- Elements delivered in order so far. -/
  given  : Nat
  /-- Delivered elements by index. -/
  got    : List (Nat × Elem)
  /-- Next index to write (classes 2 and 3). -/
  wr     : Nat
  /-- Writes completed. -/
  wrote  : Nat
  /-- The stream waits for this buffer: number and whether it waits for space, since when. -/
  wait   : Option (Nat × Bool × Nat)
  /-- A bias or outlier lane stream, which no waybill moves: byte address and format code of element 0. -/
  direct : Option (Nat × Nat)
  /-- What each GATHER of the run has read, by the position at which it was executed (R207). -/
  gathers : List (Nat × GVal)
  /-- Indices at which another unit begins: requests on both sides never merge (R212). -/
  cuts   : List Nat
  deriving DecidableEq, Repr

/-- A transfer that is outstanding, or a read completed ahead of an earlier one (R212, R213). -/
structure Xfer where
  slot  : Nat
  op    : Nat
  unit  : Option UnitId
  write : Bool
  first : Nat
  count : Nat
  /-- Elements read by a completed transfer. -/
  data  : Option (List Elem)
  /-- Its bytes [lo, hi), and its number in issue order over all carters (R174, R213). -/
  lo    : Nat
  hi    : Nat
  seq   : Nat
  deriving DecidableEq, Repr

/-- A carter: the runs of its four slots, oldest first, and its transfers in issue order. -/
structure CarterSt where
  runs  : List (Nat × List Run)
  xfers : List Xfer
  deriving DecidableEq, Repr

/-- A stream buffer's contents, oldest first, and those in spill pages behind them (R218, R221). -/
structure BufSt where
  elems   : List Elem
  /-- Each with its code width. -/
  spill   : List (Elem × Nat)
  spilled : Bool
  deriving DecidableEq, Repr

/-- A collective operation in progress (R326 to R335). -/
structure CollSt where
  /-- 1 data or a credit awaited, 2 the gather of an all-reduce awaited, 3 column partials awaited, 4 nothing left but to complete. -/
  stage    : Nat
  /-- Payload this module has sent, in lines. -/
  lines    : Nat
  deriving DecidableEq, Repr

/-- The engines of the step (R172). -/
structure EngSt where
  ops     : List (Nat × OpRun)
  /-- Sub-queues of the steal queues, by workshop, head first (R183). -/
  subq    : List (Nat × List UnitId)
  looms   : List (Nat × LoomSt)
  taken   : List TakenUnit
  /-- Open tiles, key 2^40 × operation + tile. -/
  tiles   : List (Nat × TileSt)
  carters : List (Nat × CarterSt)
  /-- Operations armed in each slot with a persistent waybill, key 4 × carter + slot, oldest first (R217). -/
  armed   : List (Nat × List Nat)
  bufs    : List (Nat × BufSt)
  /-- Elements each lane has done of each vector operation, key 2^16 × operation + 64 × workshop + lane (R180). -/
  lanes   : List (Nat × Nat)
  /-- Long accumulators of the vector units, key 64 × workshop + index (R176). -/
  lacc    : List (Nat × Acc)
  colls   : List (Nat × CollSt)
  /-- Operations in the order in which they started (R183, R293). -/
  order   : List Nat
  /-- Looms that found no unit and have taken none since (R184). -/
  missing : List Nat
  /-- Persistent waybills that slots keep, key 4 × carter + slot: the arm block in force (R216, R217). -/
  kept    : List (Nat × BitVec 320)
  /-- Transfers issued in the step. -/
  issued  : Nat
  /-- Exception records of the tiles completed, key 2^40 × operation + tile; unlisted: 0 (R86). -/
  records : List (Nat × BitVec 128)
  deriving DecidableEq, Repr

/-! ### The step in progress (12, 10, 06) -/

/-- The step in progress, or the last one until its barrier completes (R418). -/
structure StepSt where
  /-- A step has begun and its barrier has not completed. -/
  active   : Bool
  number   : BitVec 48
  plan     : Nat
  cursor   : BitVec 48
  upd      : List (BitVec 512)
  /-- Timebase when it began. -/
  start    : Nat
  /-- 0 operations, 1 mill phase, 2 boundary work, 3 seal and barrier. -/
  phase    : Nat
  /-- Operations: 1 started, 2 completed; unlisted: not started. -/
  ops      : List (Nat × Nat)
  /-- Fault records, in the order kept (R226, R227). -/
  faults   : List (BitVec 256)
  faultsLost : Nat
  /-- Ranges of the faults that were counted and not kept (R227). -/
  lostRanges : List (BitVec 256)
  invalid  : Bool
  skipped  : Bool
  calib    : Bool
  sampleWait : Bool
  missed   : Bool
  forced   : Bool
  /-- Timebase when its seal was secured, 0 if it is not. -/
  secured  : Nat
  /-- Idle loom-ns by cause (R344). -/
  idle     : List Nat
  /-- EV_POISON_CONSUMED and EV_STREAM_FAULT were raised in the step (R225). -/
  poisonRaised : Bool
  streamRaised : Bool
  /-- The vote's result, once every bit has arrived (R335). -/
  vote     : Option Bool
  /-- Mills: descriptor and record position they have reached (R268). -/
  mills    : List (Nat × (Nat × Nat))
  /-- Descriptors whose prologue is done, and those whose statistics area was bad (R268, R285). -/
  prologues : List Nat
  badShards : List Nat
  /-- Embedding rows in update, key 2^32 × descriptor + row: Δt (none: age unknown) and the new RROW (none: not
  to be written) (R280). -/
  rows     : List (Nat × (Option Nat × Option Nat))
  heldRaised : Bool
  /-- The step was abandoned (R372); a mill phase that had started still runs. -/
  abandoned : Bool
  /-- Barrier awaited for step `number`: 0 none, 1 the step's (or the initial seal's), 2 the replay barrier (R361, R385). -/
  barrier   : Nat
  /-- Step exception ledger and strict flags, as bits [1535:1024] of the step report (R89, R179, R419). -/
  ledger    : BitVec 512
  /-- Why the module's own vote is false: bit 0 non-finite sent, 1 non-finite received, 2 norm jump, 3 step skew (R276). -/
  causes    : Nat
  deriving DecidableEq, Repr

/-! ### The Assayer's transient counters (04) -/

/-- What the slices gathered of one tensor in the step (R130, R131). -/
structure TensorStat where
  /-- Largest magnitude. -/
  amax      : Dy
  /-- Finite values. -/
  n         : Nat
  zeros     : Nat
  /-- Exact sum of squares. -/
  squares   : Dy
  /-- Histogram bins. -/
  hist      : List (Nat × Nat)
  /-- Largest magnitude by 64-channel block and by channel. -/
  blocks    : List (Nat × Dy)
  channels  : List (Nat × Dy)
  /-- Block histograms, key 32 × block + bin. -/
  blockHist : List (Nat × Nat)
  deriving DecidableEq, Repr

/-- What the slices gathered of one steered layer in the step (R130). -/
structure LayerStat where
  sat      : Nat
  /-- Flush events of weights, activations and the gradient. -/
  flush    : List Nat
  compared : Nat
  disagree : Nat
  /-- Sampled tiles completed. -/
  sampled  : Nat
  /-- Finite output values and the exact sum of their squares. -/
  n        : Nat
  squares  : Dy
  /-- The local norm test of the output and of the gradient was made (bits 0, 1), and raised an event (bit 2) (R159). -/
  tested   : Nat
  deriving DecidableEq, Repr

/-- The Assayer in a step and at its boundary (R130, R163, R336). -/
structure AssaySt where
  tensors : List (Nat × TensorStat)
  layers  : List (Nat × LayerStat)
  /-- Scales set within the step for tensors in calibration (R163). -/
  calib   : List (Nat × Nat)
  /-- Boundary commands that take part in the boundary under way (R133). -/
  dueCount : Nat
  deriving DecidableEq, Repr

/-! ### The whole state -/

/-- Faults: none. No command of the spec ends in a stop, so the type has no constructor. -/
inductive Fault where
  deriving DecidableEq, Repr

/-- Refusals. -/
inductive Refusal where
  /-- Raised by an arm of `exec` whose row has no meaning yet; safe, since nothing is claimed of it. -/
  | notModelled (mnemonic : String)
  deriving DecidableEq, Repr

/-- The state of the module. -/
structure State where
  pins    : PinSt
  clk     : ClockSt
  ident   : IdentSt
  fuses   : FuseSt
  pcie    : PcieSt
  /-- Mailboxes A to D by number; unlisted: idle and empty. -/
  mbox    : List (Nat × Mailbox)
  evq     : EvqSt
  obs     : ObsSt
  mem     : MemSt
  fab     : FabSt
  sealer  : SealSt
  buddy   : BuddySt
  restore : Option RestoreSt
  job     : JobSt
  pow     : PowerSt
  step    : StepSt
  eng     : EngSt
  assay   : AssaySt
  /-- Commands waiting, first in first out (log 3). -/
  pending : List Instr
  /-- The model's counter of free values (log 12). -/
  freeCtr : Nat
  deriving DecidableEq, Repr

/-! ### Values after a reset -/

/-- An idle mailbox with an empty window (R398). -/
def Mailbox.idle : Mailbox := ⟨0, 0, [], none⟩

/-- A DOWN port (R310). -/
def PortSt.down : PortSt := ⟨0, [0, 0, 0, 0], [0, 0, 0, 0], 0, 0xFFFFFFFF, [], false, 3, false, []⟩

/-- Clock state at step 1 of R439. -/
def ClockSt.initial : ClockSt := ⟨0, true, true, false, false, 0, 0, none, 1, none⟩

/-- The identity page after a reset of the given cause (R432). -/
def IdentSt.initial (cause : Nat) : IdentSt :=
  { stage := 1, resetCause := cause, fwVersion := 0, fabricAddr := 0xFFFF, chFail := 0, jobStep := 0,
    committed := 0, nmiClock := false, nmiDue := false, dmaBase := 0, imageAddr := 0, imageLen := 0,
    rate := 12800, nextRate := 12800, ceLimit := 1024, svn := 0, lcMask := 0, imageVersion := 0,
    measurement := none, verified := false }

/-- The fuses of a part as shipped: Deployed, after the two transitions that lead there (R488, R529). -/
def FuseSt.shipped : FuseSt :=
  { serial := Config.serial, rootHash := Config.rootHash, rollback := Config.rollback.val,
    lcLog := [(1, true), (2, true)], identityKey := Config.identityKey, keyDestroyed := false,
    cert := Config.certificate, order512 := Config.order512, revId := Config.revId }

/-- The host link after a power-on (R433, R438). -/
def PcieSt.initial : PcieSt :=
  ⟨false, false, false, false, 36, [], 0, [], [], false, 0, []⟩

/-- Event queue control after any reset (R438). -/
def EvqSt.initial : EvqSt := ⟨0, 0, false, 0, 0, 0, 0, 0, none⟩

/-- Counters and trace after any reset (R495, R501). -/
def ObsSt.initial : ObsSt := ⟨[], [], 0, 0, 0, 0, 0, [], [], 0, none, 0, 0⟩

/-- Every memory as the wipe leaves it (R253). -/
def MemSt.wiped : MemSt := ⟨[], [], [], 0, [], [], [], [], false, []⟩

/-- The fabric side after any reset (R310, R345). -/
def FabSt.initial : FabSt := ⟨[], [], [], [], [], [], [], [], [], [], [], [], [], [], [], none, []⟩

/-- No seal. -/
def SealSt.none : SealSt := ⟨0, 0, [], [], [], [], false, [], [], [], Option.none, Option.none, [], false⟩

/-- No image held for an origin. -/
def BuddySt.none : BuddySt := ⟨Option.none, [], [], Option.none, Option.none, [], Option.none, Option.none, Option.none, Option.none⟩

/-- No job (R371). -/
def JobSt.none : JobSt :=
  { state := 0, cause := 0, holding := false, holdDue := false, dueHold := 0, seed := 0, rank := 0, kind := 0, gather := 0,
    barrier := 0, fbAllow := 0, t0 := 0, update := 0, spillPages := 0, sealDesc := 0, tensors := [],
    optsets := [], waybills := [], images := [], plans := [], buffers := [], steer := [], overrides := [], due := [],
    dispatches := [], admitted := false, lastBegun := 0, cursor := 0, draws := [], reports := [],
    faults := [], drawHead := 0, shapes := [], benches := [], inherited := [], firstStats := [], sealedStats := [] }

/-- Power control after any reset (R450, R455, R460). -/
def PowerSt.initial : PowerSt :=
  { opHost := 1, opPurse := 2, opThermal := 2, opNow := 1, ramp := false, cap := 1250, forced := false,
    pausePurse := false, pauseThermal := false, pauseRaised := false, throttle := false, hotSince := none,
    coolSince := none, rhoNum := 1, rhoDen := 1, windows := [], events := [], windowAt := 0,
    energyAtBegin := 0, gates := [] }

/-- No step. -/
def StepSt.none : StepSt :=
  { active := false, number := 0, plan := 0, cursor := 0, upd := [], start := 0, phase := 0, ops := [],
    faults := [], faultsLost := 0, lostRanges := [], invalid := false, skipped := false, calib := false, sampleWait := false,
    missed := false, forced := false, secured := 0, idle := [0, 0, 0, 0, 0, 0, 0, 0, 0],
    poisonRaised := false, streamRaised := false, vote := Option.none, mills := [], prologues := [],
    badShards := [], rows := [], heldRaised := false, abandoned := false, barrier := 0, ledger := 0, causes := 0 }

/-- Nothing gathered. -/
def AssaySt.none : AssaySt := ⟨[], [], [], 0⟩

/-- Idle engines. -/
def EngSt.none : EngSt := ⟨[], [], [], [], [], [], [], [], [], [], [], [], [], [], 0, []⟩

/-- A loom with nothing in it. -/
def LoomSt.idle : LoomSt := ⟨Option.none, Option.none, [], [], Option.none, false, false⟩

/-- A carter with nothing to do. -/
def CarterSt.idle : CarterSt := ⟨[], []⟩

/-- The module right after a reset of cause 0: step 1 of R439, with VAUX up, every rail on and PWR_GOOD,
PERST_N and MOD_RESET_N high (log 1). -/
def State.reset : State :=
  { pins := { vin := Config.vin, vauxUp := true, pwrGood := true, perstN := true, modResetN := true,
              railsOn := true, ramping := false, railFault := false, trip := false, hotWait := false,
              slotId := Config.slotStraps, alerts := 0, alert := false, pinWatts := 0, tj := 0, tjMax := 0,
              sensors := [], tap := .bypass, smbusOut := [] }
    clk := ClockSt.initial
    ident := IdentSt.initial 0
    fuses := FuseSt.shipped
    pcie := PcieSt.initial
    mbox := []
    evq := EvqSt.initial
    obs := ObsSt.initial
    mem := MemSt.wiped
    fab := FabSt.initial
    sealer := SealSt.none
    buddy := BuddySt.none
    restore := none
    job := JobSt.none
    pow := PowerSt.initial
    step := StepSt.none
    eng := EngSt.none
    assay := AssaySt.none
    pending := []
    freeCtr := 0 }

end Sys2Proof.Machine
end

