-- ==== Sys2Proof/Machine/Ops.lean ====
section
/-! DEFINITION. Named operations over the state that every family of commands shares: time, counters, trace,
events and host memory, words of memory with their code, the page map, and bytes at module addresses. -/

namespace Sys2Proof.Machine

/-! ### Counters (R495 to R497) -/

/-- Counter n, without the fused constants. -/
def counterAt (s : State) (n : Nat) : BitVec 64 := mapGet s.obs.counters n 0

/-- Counter n set to v. -/
def setCounter (s : State) (n v : Nat) : State :=
  { s with obs := { s.obs with counters := sparseSet 0 s.obs.counters n (BitVec.ofNat 64 v) } }

/-- Counter n raised by k, modulo 2^64 (R496). -/
def addCounter (s : State) (n k : Nat) : State := setCounter s n ((counterAt s n).toNat + k)

/-- Counter n raised by one. -/
def bump (s : State) (n : Nat) : State := addCounter s n 1

/-! ### Time and idle looms (R344, R442, R497) -/

/-- The timebase in ns (R442). -/
def timebase (s : State) : Nat := s.clk.periods * 625 / 24

/-- Data of the host is awaited: a transfer outstanding in a run with a base in the host region (R344, cause 2). -/
def hostAwaited (s : State) : Bool :=
  s.eng.carters.any fun c => !c.2.xfers.isEmpty &&
    c.2.runs.any fun k => k.2.any fun r =>
      (List.range 4).any fun b => decide (2 ^ 47 ≤ fld r.arm (64 * b + 111) (64 * b + 64))

/-- Addresses that an operation entry reads (R412). -/
def entryReads (e : BitVec 2048) : List Nat :=
  match fld e 3 0 with
  | 0 => [0, 1, 3].flatMap fun k =>
      if fld e (320 * k + 783) (320 * k + 768) = 0xFFFF then []
      else (List.range 4).map fun b => fld e (320 * k + 64 * b + 879) (320 * k + 64 * b + 832)
  | 1 => [fld e 303 256, fld e 367 320, fld e 431 384]
  | _ => [fld e 247 200]

/-- Entries of the plan of the step that runs. -/
def runningEntries (s : State) : List (BitVec 2048) :=
  match (if s.step.active then mapFind s.job.plans s.step.plan else none) with
  | some p => p.entries
  | none => []

/-- An operation that has not started reads the next slot of a stage queue, and the slot is not filled (R341). -/
def slotAwaited (s : State) : Bool :=
  s.fab.queues.any fun q =>
    let r := q.2.record
    let lines := fld r 63 32
    let lo := fld r 111 64 + 64 * (q.2.released % max (fld r 30 24) 1 * lines)
    let filled := match mapFind q.2.filling q.2.released with
      | some (ls, some n) => decide (ls.length = n)
      | _ => false
    bitOf r 6 && bitOf r 7 && !filled && (runningEntries s).zipIdx.any fun e =>
      mapGet s.step.ops e.2 0 == 0 && (entryReads e.1).any fun a => decide (lo ≤ a) && decide (a < lo + 64 * lines)

/-- A producer queue has no credit left (R341). -/
def noCredit (q : StageQueue) : Bool :=
  bitOf q.record 6 && !bitOf q.record 7 && decide (fld q.record 30 24 ≤ (BitVec.ofNat 32 q.begun - q.received).toNat)

/-- A send under way waits for a credit of its queue (R341, cause 4). -/
def awaitsCredit (s : State) (c : Nat × CollSt) : Bool :=
  let e := (runningEntries s).getD c.1 0
  decide (c.2.stage = 1) && decide (fld e 131 128 = 5) &&
    (match mapFind s.fab.queues (fld e 453 448) with | some q => noCredit q | none => false)

/-- A send waits for a credit (R341, cause 4). -/
def creditAwaited (s : State) : Bool := s.eng.colls.any (awaitsCredit s)

/-- Data, a vote, a merge, a stage queue slot a route of a peer, or the barrier is awaited (R341, R344, R362,
cause 3). -/
def peerAwaited (s : State) : Bool :=
  let n := (runningEntries s).length
  (s.eng.colls.any fun c => !awaitsCredit s c) || !s.fab.merges.isEmpty || slotAwaited s || (s.fab.txq.any fun x => x.port.isNone) ||
    s.step.phase == 3 || (s.step.phase == 0 && (mapFind s.fab.votes s.ident.fabricAddr.toNat).isSome) ||
    (s.step.phase == 0 && (List.range n).all fun i => mapGet s.step.ops i 0 == 2)

/-- The first cause of R344 that applies to loom l. -/
def idleCause (s : State) (l : Nat) : Nat :=
  let x : LoomSt := mapGet s.eng.looms l LoomSt.idle
  if s.pow.throttle || s.pow.pauseThermal then 0
  else if s.pow.pausePurse then 1
  else if hostAwaited s then 2
  else if peerAwaited s then 3
  else if creditAwaited s then 4
  else if x.shadow.isSome || x.active.isSome then 5
  else if x.out.isSome || s.step.phase == 1 || s.eng.carters.any (fun c => c.2.xfers.any (·.write)) then 6
  else if s.eng.subq.any (fun q => !q.2.isEmpty) then 7
  else 8

/-- The load in the shadow registers is not complete (R100). -/
def loadPartial (x : LoomSt) : Bool := match x.shadow with | some ld => decide (ld.waves < 16) | none => false

/-- Loom-ns of d ns attributed to the causes, and the stall counters of the looms (R101, R184, R190, R344, R497; log 32). -/
def countIdle (s : State) (d : Nat) : State :=
  (List.range 512).foldl (fun s l =>
    let c := idleCause s l
    let x : LoomSt := mapGet s.eng.looms l LoomSt.idle
    let idle := s.step.idle.set c (s.step.idle.getD c 0 + d)
    let s := addCounter { s with step := { s.step with idle := idle } } (0xEA0 + c) d
    let s := if x.loadWait && loadPartial x then addCounter s (0x400 + l) d else s
    let s := if x.foldWait then addCounter s (0x600 + l) d else s
    if s.eng.missing.contains l then addCounter s (0x800 + l) d else s) s

/-- d ns pass: idle time of a step that runs and is not yet secured (R498), and the times kept by the power side (R497). -/
def elapse (s : State) (d : Nat) : State :=
  let s := if s.step.active && s.step.secured == 0 then countIdle s d else s
  let s := if s.pow.throttle then addCounter s 0xECB d else s
  if s.pow.pausePurse then addCounter s 0xECC d else s

/-- The clock at n periods, with what passes until then. -/
def clockTo (s : State) (n : Nat) : State :=
  let t := timebase s
  let s' : State := { s with clk := { s.clk with periods := n } }
  elapse s' (timebase s' - t)

/-- The state with at least the timebase t: the clock has run up to it (log 2). -/
def advanceTo (s : State) (t : Nat) : State :=
  if s.clk.running && decide (timebase s < t) then clockTo s (ceilDiv (t * 24) 625) else s

/-- One period of the driving clock passes, while it runs (R442). -/
def tickPeriod (s : State) : State :=
  if s.clk.running then clockTo s (s.clk.periods + 1) else s

/-- The next free value, below a bound (log 12). -/
def freeBelow (s : State) (bound : Nat) : State × Nat :=
  ({ s with freeCtr := s.freeCtr + 1 }, Config.freeNat s.freeCtr % bound)

/-! ### Stage and job (R371, R432) -/

/-- The Foreman runs: only then are events raised (R441). -/
def foremanUp (s : State) : Bool := s.ident.stage == 2

/-- The module is stopped: its rails are off (R447, R471, R525). -/
def stopped (s : State) : Bool := !s.pins.railsOn

/-- A job exists (R4, R371). -/
def jobExists (s : State) : Bool := s.job.state != 0

/-- A step is running (R418). -/
def stepRuns (s : State) : Bool := s.step.active

/-- The life-cycle state (R487): the last completed slot, Blank if none, Scrapped once the key is destroyed. -/
def lifecycleOf (f : FuseSt) : Nat :=
  if f.keyDestroyed then 4
  else (f.lcLog.foldl (fun acc e => if e.2 then e.1 else acc) 0)

/-! ### Events of the Purse (R451) -/

/-- k events of class cls of R451 at a unit. -/
def countEvents (s : State) (cls unit k : Nat) : State :=
  { s with pow := { s.pow with events := mapUpd s.pow.events (256 * cls + unit) 0 (· + k) } }

/-! ### Host memory (R434 to R437) -/

/-- The module can master the link: memory requests reach the host (R436). -/
def canMaster (s : State) : Bool := s.pcie.linkUp && s.pcie.busMaster && !s.pcie.d3hot

/-- n bytes of a sparse memory from address a. -/
def cellsGet (m : List Host.Cell) (a n : Nat) : List Byte :=
  let w := m.filter fun c => decide (a ≤ c.1) && decide (c.1 < a + n)
  (List.range n).map fun i => mapGet w (a + i) 0

/-- n bytes from address a of rising cells of which none lies below a, put before those in acc, last one first. -/
def denseCells : (n : Nat) → (a : Nat) → List Host.Cell → (acc : List Byte) → List Byte
  | 0, _, _, acc => acc
  | n + 1, a, [], acc => denseCells n (a + 1) [] (0 :: acc)
  | n + 1, a, (k, v) :: m, acc =>
    if k = a then denseCells n (a + 1) m (v :: acc) else denseCells n (a + 1) ((k, v) :: m) (0 :: acc)

/-- A sparse memory with bytes written from address a, its form kept. -/
def cellsPut (m : List Host.Cell) (a : Nat) : List Byte → List Host.Cell
  | [] => m
  | b :: bs => cellsPut (sparseSet 0 m a b) (a + 1) bs

/-- Bytes written to host memory at a PCIe address. -/
def hostPut (s : State) (a : Nat) (bs : List Byte) : State :=
  { s with pcie := { s.pcie with hostMem := cellsPut s.pcie.hostMem a bs } }

/-- n bytes of host memory at a PCIe address. -/
def hostGet (s : State) (a n : Nat) : List Byte := cellsGet s.pcie.hostMem a n

/-- First address of the host region (R234). -/
def hostBase : Nat := 0x800000000000

/-- The PCIe address of a module address in the host region (R434). -/
def pcieAddr (s : State) (a : Nat) : Nat := s.ident.dmaBase.toNat / 4096 * 4096 + (a - hostBase)

/-- A module address lies in the host region. -/
def inHost (a : Nat) : Bool := decide (hostBase ≤ a) && decide (a < 2 ^ 48)

/-! ### MSI-X (R423) -/

/-- An MSI-X table entry nothing has written: masked (log 11). -/
def msixDefault : BitVec 128 := BitVec.ofNat 128 (2 ^ 96)

/-- Entry v of the MSI-X table. -/
def msixEntry (s : State) (v : Nat) : BitVec 128 := mapGet s.pcie.msix v msixDefault

/-- The message of vector v is written to the host. -/
def sendVector (s : State) (v : Nat) : State :=
  let e := msixEntry s v
  let s := hostPut s (fld e 63 0) (bytesOfNat 4 (fld e 95 64))
  { s with pcie := { s.pcie with signals := s.pcie.signals ++ [v] } }

/-- Vector v is signalled: vector 0 whatever its mask; another one only when it is not masked, else its
pending bit is set (R423, log 11). -/
def signalVector (s : State) (v : Nat) : State :=
  if !canMaster s then s
  else if v != 0 && bitOf (msixEntry s v) 96 then
    { s with pcie := { s.pcie with pba := s.pcie.pba ||| BitVec.ofNat 64 (2 ^ v) } }
  else sendVector s v

/-! ### Trace (R501 to R505) -/

/-- Ring capacity in records (R501). -/
def traceCap (s : State) : Nat := s.obs.pages.toNat * 65536

/-- A trace record of a source; the flag says that EV_TRACE_WRAP is due (R504, R505). -/
def traceCore (s : State) (src kind argS a0 a1 : Nat) : State × Bool :=
  let o := s.obs
  if !bitOf o.mask src || o.pages == 0 then (s, false)
  else
    let now := timebase s
    let sec := now / 1000000000
    let used := if o.rateSecond = sec then o.rateCount else 0
    if 16000000 ≤ used then
      (bump { s with obs := { o with dropped := o.dropped + 1, rateSecond := sec, rateCount := used } } 0xEC9, false)
    else
      let n := o.wr.toNat
      let cap := traceCap s
      let rec_ := packRec 256 [(31, 0, n), (39, 32, src), (47, 40, kind), (63, 48, argS), (127, 64, now),
        (175, 128, s.ident.jobStep.toNat), (223, 192, a0), (255, 224, a1)]
      let isOver := decide (cap ≤ n)
      let due := isOver && (match o.wrapAt with | none => true | some t => decide (t + 1000000000 ≤ now))
      let s := { s with obs := { o with ring := mapSet o.ring (n % cap) rec_, wr := o.wr + 1,
                                        rateSecond := sec, rateCount := used + 1,
                                        wrapped := if isOver then o.wrapped + 1 else o.wrapped } }
      (if isOver then bump s 0xECA else s, due)

/-! ### The event queue (R420 to R423) -/

/-- An event as it is raised (R422). -/
structure EventArgs where
  code : Nat
  src  : Nat
  argS : Nat := 0
  a0   : Nat := 0
  a1   : Nat := 0
  a2   : Nat := 0
  nmi  : Bool := false
  deriving DecidableEq, Repr

/-- Ring size N (R420). -/
def evqSize (q : EvqSt) : Nat := 2 ^ q.log2n.toNat

/-- The queue is full (R421). -/
def evqFull (q : EvqSt) : Bool := (q.tail - q.head).toNat == evqSize q

/-- The vector of an event (R423). -/
def vectorOf (q : EvqSt) (e : EventArgs) : Nat :=
  if e.nmi then 0
  else if e.code = 2 then 1 + e.argS % 4
  else
    let b := e.code / 4096 % 16
    let v := fld q.vecmap (8 * b + 5) (8 * b)
    if v = 0 then 5 + b else v

/-- The 256-bit record of an event (R422). -/
def eventRecord (s : State) (e : EventArgs) (lostBefore : Bool) : BitVec 256 :=
  let c := s.evq.tail.toNat
  packRec 256 [(15, 0, e.code), (23, 16, e.src), (24, 24, 1 - c / evqSize s.evq % 2), (25, 25, bit e.nmi),
    (26, 26, bit lostBefore), (79, 32, s.ident.jobStep.toNat), (95, 80, e.argS), (159, 96, timebase s),
    (191, 160, e.a0), (223, 192, e.a1), (255, 224, e.a2)]

/-- A record goes into the queue if it can (flag), or is lost and counted (R421). -/
def queueEvent (s : State) (e : EventArgs) : State × Bool :=
  let q := s.evq
  if q.enable && !evqFull q && canMaster s then
    let r := eventRecord s e (q.unreported != 0)
    let s := hostPut s (q.base.toNat + 32 * (q.tail.toNat % evqSize q)) (bytesOfNat 32 r.toNat)
    let q' := { q with tail := q.tail + 1 }
    let q' := { q' with fullSince := if evqFull q' then some (timebase s) else none }
    (signalVector { s with evq := q' } (vectorOf q e), true)
  else
    ({ s with evq := { q with lost := if q.lost = 0xFFFFFFFF then q.lost else q.lost + 1,
                              unreported := q.unreported + 1 } }, false)

/-- A raised event is queued; after a loss it is followed at once by EV_EVQ_OVERFLOW; an NMI event that
cannot be queued is latched, and vector 0 is still signalled (R421, R423). -/
def raiseCore (s : State) (e : EventArgs) : State :=
  let lost := s.evq.unreported
  let (s, ok) := queueEvent s e
  if ok then
    if lost = 0 then s
    else (queueEvent { s with evq := { s.evq with unreported := 0 } } { code := 3, src := 0, a0 := lost }).1
  else if e.nmi then
    let s := { s with ident := { s.ident with nmiClock := true, nmiDue := !canMaster s } }
    signalVector s 0
  else s

/-- EV_TRACE_WRAP with the records overwritten since the last one (R505). -/
def raiseWrap (s : State) : State :=
  let n := s.obs.wrapped
  let s := { s with obs := { s.obs with wrapped := 0, wrapAt := some (timebase s) } }
  let s := (traceCore s 0 0 0x8001 n 0).1
  raiseCore s { code := 0x8001, src := 0, a0 := n }

/-- A trace record, with the wrap event it may bring (R504, R505). -/
def trace (s : State) (src kind argS a0 a1 : Nat) : State :=
  let (s, due) := traceCore s src kind argS a0 a1
  if due then raiseWrap s else s

/-- An event is raised, traced and queued; nothing is raised unless the Foreman runs (R441). -/
def raise (s : State) (e : EventArgs) : State :=
  if foremanUp s then raiseCore (trace s 0 0 e.code e.a0 e.argS) e else s

/-! ### Words of memory (R243 to R252) -/

/-- Bases of the on-chip regions (R234). -/
def scratchBase : Nat := 0x400000000000
def storeBase : Nat := 0x400020000000

/-- Source, unit and location of a physical byte (R251): channel, scratchpad or guild store. -/
def unitOf (p : Nat) : Nat × Nat × Nat :=
  if p < 2 ^ 40 then (0, p / 2 ^ 34, p % 2 ^ 34)
  else if p < storeBase then (1, (p - scratchBase) / 0x400000, (p - scratchBase) % 0x400000)
  else (2, (p - storeBase) / 0x2000000, (p - storeBase) % 0x2000000)

/-- The stored data of the word at p (a multiple of 16). -/
def rawData (s : State) (p : Nat) : Nat := natOfBytes (cellsGet s.mem.data p 16)

/-- The stored metadata of that word. -/
def rawMeta (s : State) (p : Nat) : Nat := natOfBytes (cellsGet s.mem.metadata (p / 8) 2)

/-- The word at p holds data and metadata. -/
def putWord (s : State) (p data md : Nat) : State :=
  { s with mem := { s.mem with data := cellsPut s.mem.data p (bytesOfNat 16 data),
                               metadata := cellsPut s.mem.metadata (p / 8) (bytesOfNat 2 md) } }

/-- First counter of a source's correctable (`unc` false) or uncorrectable records (R497). -/
def errCounter (source : Nat) (unc : Bool) : Nat :=
  match source, unc with
  | 0, false => 0xC80
  | 0, true => 0xCC0
  | 1, false => 0xD00
  | 1, true => 0xD80
  | _, false => 0xE10
  | _, true => 0xE20

/-- EV_MEM_UNCORRECTABLE at a unit's first uncorrectable record of a step or gap (R252). -/
def raiseUnc (s : State) (key index loc : Nat) : State :=
  if s.mem.ueRaised.contains key then s
  else
    let s := { s with mem := { s.mem with ueRaised := s.mem.ueRaised ++ [key] } }
    raise s { code := 0x3004, src := 4, argS := key, a0 := index, a1 := loc }

/-- The count of correctable records in the last second against CE_LIMIT (R252). -/
def raiseCe (s : State) (key : Nat) : State :=
  let now := timebase s
  let kept := (mapGet s.mem.ceTimes key []).filter fun t => decide (now < t + 1000000000)
  let lim := s.ident.ceLimit.toNat
  let isOver := s.mem.ceOver.contains key && decide (lim < kept.length)
  let n := kept.length + 1
  let m := { s.mem with ceTimes := mapSet s.mem.ceTimes key (now :: kept),
                        ceOver := if lim < n then (if s.mem.ceOver.contains key then s.mem.ceOver else s.mem.ceOver ++ [key])
                                  else s.mem.ceOver.filter (· != key) }
  let s := { s with mem := m }
  if decide (lim < n) && !isOver then raise s { code := 0x3005, src := 4, argS := key, a0 := n } else s

/-- One memory error record (R251), its counter, its trace record and its events. -/
def logMem (s : State) (p found : Nat) (unc : Bool) (r : WordRead) : State :=
  let (source, unit, loc) := unitOf p
  let rec_ := packRec 128 [(1, 0, source), (3, 2, found), (5, 4, bit unc), (16, 8, r.syndrome),
    (17, 17, bit r.poisonBit), (23, 18, r.tag), (31, 24, unit), (79, 32, loc), (127, 80, timebase s)]
  let full := decide (256 ≤ s.mem.ring.length)
  let index := s.mem.logged % 256
  let s := { s with mem := { s.mem with ring := (if full then s.mem.ring.drop 1 else s.mem.ring) ++ [rec_],
                                        logged := s.mem.logged + 1 } }
  let s := if full then bump s 0xEBF else s
  let s := bump s (errCounter source unc + unit)
  let key := source * 256 + unit
  let s := trace s 7 (bit unc) key (loc % 2 ^ 32) r.syndrome
  if unc then raiseUnc s key index (loc % 2 ^ 32) else raiseCe s key

/-- A read of the word at p (R246): a correctable word is delivered corrected and written back (R249), an
uncorrectable one is logged. -/
def readMem (s : State) (p found : Nat) : State × WordRead :=
  let r := readWord (rawData s p) (rawMeta s p)
  match r.cls with
  | .clean => (s, r)
  | .poisoned => (s, r)
  | .corrected => (logMem (putWord s p r.fixData r.fixMeta) p found false r, r)
  | .uncorrectable => (logMem s p found true r, r)

/-- A consumer takes the word as a fault of kind 1 (R246). -/
def badWord (r : WordRead) : Bool :=
  match r.cls with
  | .poisoned => true
  | .uncorrectable => true
  | .clean => false
  | .corrected => false

/-- A whole word written with its check and tag, poisoned or not (R244, R245, R247). -/
def writeWord (s : State) (p data tag : Nat) (poison : Bool) : State := putWord s p data (writeMeta data tag poison)

/-- Data with `bytes` merged at byte offset `off` of the word. -/
def mergeWord (data off : Nat) (bytes : List Byte) : Nat :=
  natSetFld data (8 * (off + bytes.length) - 1) (8 * off) (natOfBytes bytes)

/-- A write of part of a word: read, merge, write whole; poisoned where the read is bad (R248). -/
def mergeMem (s : State) (p off : Nat) (bytes : List Byte) (tag : Nat) (poison : Bool) : State :=
  if off = 0 ∧ bytes.length = 16 then writeWord s p (natOfBytes bytes) tag poison
  else
    let (s, r) := readMem s p 2
    writeWord s p (mergeWord r.data off bytes) tag (poison || badWord r)

/-! ### Generations (R346, R347) -/

/-- Generation a is later than b (R347). -/
def laterGen (a b : BitVec 32) : Bool :=
  let d := (a - b).toNat
  decide (1 ≤ d) && decide (d < 2 ^ 31)

/-- GEN0 of the seal descriptor (R349). -/
def gen0 (s : State) : BitVec 32 := BitVec.ofNat 32 (fld s.job.sealDesc 95 64)

/-- g(t) (R346). -/
def genOf (s : State) (t : Nat) : BitVec 32 :=
  gen0 s + BitVec.ofNat 32 t - BitVec.ofNat 32 s.job.t0.toNat

/-- The step whose seal a write made now will belong to (R247, R348). -/
def writeStep (s : State) : Nat :=
  if s.step.active then s.step.number.toNat
  else if s.job.state = 1 then s.job.t0.toNat
  else s.job.lastBegun.toNat + 1

/-- The tag a write stamps (R247): 0 while no job is admitted. -/
def writeTag (s : State) : Nat :=
  if jobExists s && s.job.admitted then (genOf s (writeStep s)).toNat % 64 else 0

/-! ### The page map (R234 to R239) -/

/-- Base of guild store g. -/
def storeOf (g : Nat) : Nat := storeBase + g * 0x2000000

/-- Where the page map entry of a module address lies, if the address has a page (R234, R236). -/
def entryAddr (a : Nat) : Option Nat :=
  if a < 2 ^ 40 then
    let v := a / 2 ^ 21
    some (storeOf (v % 16) + 0x400000 + 8 * (v / 16))
  else if scratchBase ≤ a ∧ a < storeBase then
    let w := (a - scratchBase) / 0x400000
    let j := (a - scratchBase) / 0x200000 % 2
    some (storeOf (w / 8) + 0x440000 + 8 * (16 + 2 * (w % 8) + j))
  else if storeBase ≤ a ∧ a < storeBase + 0x20000000 then
    let g := (a - storeBase) / 0x2000000
    some (storeOf g + 0x440000 + 8 * ((a - storeBase) / 0x200000 % 16))
  else none

/-- Fields of a page map entry (R235). -/
def pmValid (e : Nat) : Bool := e.testBit 0
def pmWp (e : Nat) : Bool := e.testBit 1
def pmMethod (e : Nat) : Nat := natFld e 3 2
def pmSys (e : Nat) : Bool := e.testBit 4
def pmHome (e : Nat) : Nat := natFld e 8 5
def pmFrame (e : Nat) : Nat := natFld e 23 9
def pmSealgen (e : Nat) : Nat := natFld e 63 32

/-- A page map entry (R235). -/
def pmEntry (wp : Bool) (method : Nat) (sys : Bool) (home frame gen : Nat) : Nat :=
  (packRec 64 [(0, 0, 1), (1, 1, bit wp), (3, 2, method), (4, 4, bit sys), (8, 5, home), (23, 9, frame),
    (63, 32, gen)]).toNat

/-- The entry half of a page map word. -/
def entryHalf (ea data : Nat) : Nat := data / 2 ^ (8 * (ea % 16)) % 2 ^ 64

/-- The entry at ea without any error handling, 0 where its word is damaged. -/
def entryPeek (s : State) (ea : Nat) : Nat :=
  let w := ea / 16 * 16
  let r := readWord (rawData s w) (rawMeta s w)
  if badWord r then 0 else entryHalf ea r.data

/-- A lookup of the entry at ea: a damaged word is logged once and reads as unmapped (R237). -/
def lookupEntry (s : State) (ea : Nat) : State × Nat :=
  let w := ea / 16 * 16
  let r := readWord (rawData s w) (rawMeta s w)
  match r.cls with
  | .clean => (s, entryHalf ea r.data)
  | .poisoned => (s, 0)
  | .corrected => (logMem (putWord s w r.fixData r.fixMeta) w 3 false r, entryHalf ea r.data)
  | .uncorrectable =>
    if s.mem.mapDamage.contains w then (s, 0)
    else (logMem { s with mem := { s.mem with mapDamage := s.mem.mapDamage ++ [w] } } w 3 true r, 0)

/-- An entry is written under a tag: its word is read, a damaged one being logged as a lookup logs it, and written whole, the other
entry zero where the word is damaged (R237). -/
def writeEntryAs (s : State) (ea e tag : Nat) : State :=
  let w := ea / 16 * 16
  let s := (lookupEntry s ea).1
  let r := readWord (rawData s w) (rawMeta s w)
  let old := if badWord r then 0 else r.data
  let s := { s with mem := { s.mem with mapDamage := s.mem.mapDamage.filter (· != w) } }
  writeWord s w (natSetFld old (8 * (ea % 16) + 63) (8 * (ea % 16)) e) tag false

/-- An entry is written, stamped with the write generation (R237, R247). -/
def writeEntry (s : State) (ea e : Nat) : State := writeEntryAs s ea e (writeTag s)

/-- The physical byte of offset a in a page at frame F of home h (R239). -/
def frameByte (h f a : Nat) : Nat :=
  let ch := 4 * h + (natFld a 7 6 ^^^ natFld a 16 15)
  ch * 2 ^ 34 + f * 2 ^ 19 + 64 * natFld a 20 8 + a % 64

/-- The physical byte of a module address whose page has entry e: on-chip addresses are their own. -/
def physOf (a e : Nat) : Nat :=
  if a < 2 ^ 40 then frameByte (pmHome e) (pmFrame e) (a % 2 ^ 21) else a

/-- The page of an entry can be reached: VALID and not SYS (R237). -/
def reachable (e : Nat) : Bool := pmValid e && !pmSys e

/-- Translation of a module address outside the host region: its entry's place, the entry and the physical
byte, or none where the page is unmapped or the address has no page. -/
def translate (s : State) (a : Nat) : State × Option (Nat × Nat × Nat) :=
  match entryAddr a with
  | none => (s, none)
  | some ea =>
    let (s, e) := lookupEntry s ea
    (s, if reachable e then some (ea, e, physOf a e) else none)

/-- The entry of a module address looked up, errors handled (0: none). -/
def lookupPage (s : State) (a : Nat) : State × Nat :=
  match entryAddr a with
  | none => (s, 0)
  | some ea => lookupEntry s ea

/-- The entry of a module address without error handling (0: none). -/
def peekEntry (s : State) (a : Nat) : Nat :=
  match entryAddr a with
  | none => 0
  | some ea => entryPeek s ea

/-- The whole span of a module address lies in reachable pages (checked page by page). -/
def spanMapped (s : State) (a n : Nat) : Bool :=
  (List.range ((a + n - 1) / 2 ^ 21 + 1 - a / 2 ^ 21)).all fun i =>
    reachable (peekEntry s ((a / 2 ^ 21 + i) * 2 ^ 21))

/-- Frames fitted (R238): pages of 2 MiB in all and per home. -/
def framesFitted (s : State) : Nat := if s.fuses.order512 then 262144 else 524288
def framesPerHome (s : State) : Nat := framesFitted s / 16

/-! ### Pages as a whole: copies (R363) -/

/-- The page offset of a physical byte, if it lies in frame F of home h (R239, inverted). -/
def pageOffset (h f p : Nat) : Option Nat :=
  let ch := p / 2 ^ 34
  let b := p % 2 ^ 34
  if p < 2 ^ 40 ∧ ch / 4 = h ∧ b / 2 ^ 19 = f then
    let x := b % 2 ^ 19
    let hi := x / 64
    some (hi * 256 + (ch % 4 ^^^ natFld hi 8 7) * 64 + x % 64)
  else none

/-- The listed cells of a frame, keyed by page offset. `scale` is 1 for data bytes and 8 for metadata, whose
two bytes per word lie at an eighth of the word's address. -/
def frameCells (scale h f : Nat) (m : List Host.Cell) : List Host.Cell :=
  m.foldl (fun acc c =>
    match pageOffset h f (c.1 * scale / 16 * 16) with
    | some o => mapSet acc ((o + c.1 * scale % 16) / scale) c.2
    | none => acc) []

/-- A memory without the cells of a frame. -/
def dropFrame (scale h f : Nat) (m : List Host.Cell) : List Host.Cell :=
  m.filter fun c => (pageOffset h f (c.1 * scale / 16 * 16)).isNone

/-- The content of a frame. -/
def frameImage (s : State) (h f : Nat) : PageImage :=
  ⟨frameCells 1 h f s.mem.data, frameCells 8 h f s.mem.metadata⟩

/-- Words of a frame of which a cell is listed, by physical byte, in increasing order: every other word is clean and zero. -/
def frameWords (s : State) (h f : Nat) : List Nat :=
  let own := fun (scale : Nat) (m : List Host.Cell) => (m.map fun c => c.1 * scale / 16 * 16).filter fun p => (pageOffset h f p).isSome
  ((own 1 s.mem.data ++ own 8 s.mem.metadata).foldl (fun (m : List (Nat × Unit)) p => mapSet m p ()) []).map (·.1)

/-- A frame read word by word: correctable words are delivered corrected and written back, uncorrectable ones are logged (R246,
R249, R251). The answer lists the words that are poisoned or uncorrectable. -/
def readFrame (s : State) (h f : Nat) : State × List Nat :=
  (frameWords s h f).foldl (fun (acc : State × List Nat) p =>
    let (t, r) := readMem acc.1 p 0
    (t, if badWord r then acc.2 ++ [p] else acc.2)) (s, [])

/-- What a copy of a frame holds: its words as read, an uncorrectable one poisoned with its data and tag. -/
def frameCopy (s : State) (h f : Nat) (bad : List Nat) : PageImage :=
  frameImage (bad.foldl (fun s p => writeWord s p (rawData s p) (readWord (rawData s p) (rawMeta s p)).tag true) s) h f

/-- A frame cleared with the pattern of the wipe (R253, R404). -/
def clearFrame (s : State) (h f : Nat) : State :=
  { s with mem := { s.mem with data := dropFrame 1 h f s.mem.data, metadata := dropFrame 8 h f s.mem.metadata } }

/-- Cells of a page image put into a frame. -/
def putFrame (scale h f : Nat) (m cells : List Host.Cell) : List Host.Cell :=
  cells.foldl (fun acc c => sparseSet 0 acc ((frameByte h f (c.1 * scale / 16 * 16) + c.1 * scale % 16) / scale) c.2) m

/-- A frame filled with an image. -/
def fillFrame (s : State) (h f : Nat) (im : PageImage) : State :=
  let s := clearFrame s h f
  { s with mem := { s.mem with data := putFrame 1 h f s.mem.data im.data,
                               metadata := putFrame 8 h f s.mem.metadata im.metadata } }

end Sys2Proof.Machine
end

