-- ==== Sys2Proof/Machine/Pages.lean ====
section
/-! DEFINITION. Bytes at module addresses through the page map, write-protected pages and the Scrivener's
copies into the staging area (R215, R233, R237, R248, R363 to R365). -/

namespace Sys2Proof.Machine

/-! ### The staging area (R349, R363, R365) -/

/-- Fields of the seal descriptor (R349). -/
def sdBuddy (d : BitVec 256) : Nat := fld d 15 0
def sdOrigin (d : BitVec 256) : Nat := fld d 31 16
def sdTray (d : BitVec 256) : Nat := fld d 47 32
def sdBuddyTray (d : BitVec 256) : Nat := fld d 63 48
def sdStagePages (d : BitVec 256) : Nat := fld d 127 96
def sdReservePages (d : BitVec 256) : Nat := fld d 159 128
def sdDirty (d : BitVec 256) : Nat := fld d 191 160
def sdLostTimeout (d : BitVec 256) : Nat := if fld d 207 192 = 0 then 2000 else fld d 207 192
def sdHostTimeout (d : BitVec 256) : Nat := if fld d 223 208 = 0 then 30 else fld d 223 208
def sdTakeover (d : BitVec 256) : Bool := bitOf d 224

/-- Pages a number of bytes takes. -/
def pagesOf (bytes : Nat) : Nat := ceilDiv bytes 0x200000

/-- Staging pages in use by copies and by seal records. -/
def stagingUsed (s : State) : Nat :=
  let rows := s.sealer.copies.foldl (fun n c => match c.row with | some (_, len) => n + len | none => n) 0
  let pages := (s.sealer.copies.filter fun c => c.row.isNone).length
  pages + pagesOf rows + (s.sealer.records.map fun r => pagesOf r.2.length).sum

/-- The staging area has room for `n` more pages. -/
def stagingRoom (s : State) (n : Nat) : Bool := decide (stagingUsed s + n ≤ sdStagePages s.job.sealDesc)

/-- A page or row goes uncopied, and EV_SEAL_STAGING_FULL is raised once per step (R365). -/
def leaveUncopied (s : State) (v gen : Nat) : State :=
  let s := { s with sealer := { s.sealer with uncopied := s.sealer.uncopied ++ [(v, gen)] } }
  let s := trace s 11 2 0 v gen
  if s.sealer.fullRaised then s
  else raise { s with sealer := { s.sealer with fullRaised := true } } { code := 0x6002, src := 7, a0 := gen }

/-- Where the page map holds the entry of LPDDR6 page v. -/
def pageEntry (v : Nat) : Option Nat := entryAddr (v * 2 ^ 21)

/-- The copy of protected page v, whose entry e is at ea, and the end of its protection (R363, R365). -/
def copyEntry (s : State) (v ea e : Nat) : State :=
  if !pmWp e then s
  else
    let gen := pmSealgen e
    let s :=
      if stagingRoom s 1 then
        let (s, bad) := readFrame s (pmHome e) (pmFrame e)
        let c : StageCopy := ⟨BitVec.ofNat 32 gen, v, none, frameCopy s (pmHome e) (pmFrame e) bad⟩
        trace { s with sealer := { s.sealer with copies := s.sealer.copies ++ [c] } } 11 0 0 v gen
      else leaveUncopied s v gen
    writeEntry s ea (natSetFld e 1 1 0)

/-- The Scrivener copies a write-protected page into the staging area and clears WP; where there is no room
the page goes uncopied (R363, R365). -/
def copyPage (s : State) (v : Nat) : State :=
  match pageEntry v with
  | none => s
  | some ea => let (s, e) := lookupEntry s ea; copyEntry s v ea e

/-- A page joins the dirty set of the step (R356, R364). -/
def markDirty (s : State) (v : Nat) : State :=
  if s.sealer.dirtyPages.contains v then s
  else { s with sealer := { s.sealer with dirtyPages := s.sealer.dirtyPages ++ [v] } }

/-- What the first write by any writer but a mill's record path does to an LPDDR6 page whose entry is e:
the copy of R363 and the dirty mark of R356. -/
def beforeWrite (s : State) (a e : Nat) : State :=
  if decide (a < 2 ^ 40) && pmMethod e != 0 then
    let v := a / 2 ^ 21
    markDirty (if pmWp e then copyPage s v else s) v
  else s

/-! ### Bytes at module addresses -/

/-- How a byte was read: 0 as stored, 1 from a poisoned or uncorrectable word, 2 from no mapped page. -/
abbrev ReadByte := Byte × Nat

/-- n bytes of one word at module address a. In the host region a read that cannot reach the host fails (R436). -/
def loadWord (s : State) (a n : Nat) : State × List ReadByte :=
  if inHost a then
    (s, if canMaster s then (hostGet s (pcieAddr s a) n).map fun b => (b, 0) else List.replicate n (0, 2))
  else
  match translate s a with
  | (s, none) => (s, List.replicate n (0, 2))
  | (s, some (_, _, p)) =>
    let (s, r) := readMem s (p / 16 * 16) 0
    (s, (slice (bytesOfNat 16 r.data) (a % 16) n).map fun b => (b, bit (badWord r)))

/-- n bytes at a, word by word; `fuel` bounds the words. -/
def loadWords (fuel : Nat) (s : State) (a n : Nat) : State × List ReadByte :=
  match fuel with
  | 0 => (s, [])
  | fuel + 1 =>
    if n = 0 then (s, [])
    else
      let k := min n (16 - a % 16)
      let (s, bs) := loadWord s a k
      let (s, rest) := loadWords fuel s (a + k) (n - k)
      (s, bs ++ rest)

/-- n bytes at module address a. -/
def loadSpan (s : State) (a n : Nat) : State × List ReadByte := loadWords (n + 1) s a n

/-- Bytes of one word stored at module address a; the flag says that no mapped page, or no host, was there. -/
def storeWord (s : State) (a : Nat) (bs : List Byte) (tag : Nat) (poison : Bool) : State × Bool :=
  if inHost a then (if canMaster s then (hostPut s (pcieAddr s a) bs, false) else (s, true))
  else
  match translate s a with
  | (s, none) => (s, true)
  | (s, some (_, e, p)) =>
    let s := beforeWrite s a e
    (mergeMem s (p / 16 * 16) (a % 16) bs tag poison, false)

/-- Bytes stored at a, word by word; the flag says that some of them met no mapped page. -/
def storeWords (fuel : Nat) (s : State) (a : Nat) (bs : List Byte) (tag : Nat) (poison : Bool) : State × Bool :=
  match fuel with
  | 0 => (s, false)
  | fuel + 1 =>
    if bs.isEmpty then (s, false)
    else
      let k := 16 - a % 16
      let (s, bad) := storeWord s a (bs.take k) tag poison
      let (s, rest) := storeWords fuel s (a + k) (bs.drop k) tag poison
      (s, bad || rest)

/-- Bytes stored at module address a, stamped with the write generation (R247). -/
def storeSpan (s : State) (a : Nat) (bs : List Byte) (poison : Bool) : State × Bool :=
  storeWords (bs.length + 1) s a bs (writeTag s) poison

/-! ### Codes at bit addresses (R32, R215, R224, R248) -/

/-- A code to be written: bit address, bits covered, value, poison. -/
structure BitPiece where
  at_    : Nat
  width  : Nat
  value  : Nat
  poison : Bool
  deriving DecidableEq, Repr

/-- What is to be written into one 128-bit word: bits covered, their values, poison. -/
structure WordPiece where
  mask   : Nat
  value  : Nat
  poison : Bool
  deriving DecidableEq, Repr

/-- The part of a number at bit address `b` that lies in word k. -/
def inWord (b k v : Nat) : Nat :=
  if 128 * k ≤ b then v * 2 ^ (b - 128 * k) % 2 ^ 128 else v / 2 ^ (128 * k - b) % 2 ^ 128

/-- One more code joins the words it lies in. -/
def addPiece (ws : List (Nat × WordPiece)) (x : BitPiece) : List (Nat × WordPiece) :=
  (List.range ((x.at_ + x.width - 1) / 128 + 1 - x.at_ / 128)).foldl (fun (ws : List (Nat × WordPiece)) i =>
    let k := x.at_ / 128 + i
    let m := inWord x.at_ k (2 ^ x.width - 1)
    let w := mapGet ws k ⟨0, 0, false⟩
    mapSet ws k ⟨w.mask ||| m, (w.value - (w.value &&& m)) ||| inWord x.at_ k (x.value % 2 ^ x.width), w.poison || x.poison⟩) ws

/-- Some bits of word k written, the others kept: a word covered whole is not read (R248). The flag says that no mapped page,
or no host, was there. -/
def storePiece (s : State) (k : Nat) (w : WordPiece) (tag : Nat) : State × Bool :=
  let a := 16 * k
  let keep := fun (old : Nat) => (old - (old &&& w.mask)) ||| w.value
  if inHost a then
    if canMaster s then
      (hostPut s (pcieAddr s a) (bytesOfNat 16 (keep (natOfBytes (hostGet s (pcieAddr s a) 16)))), false)
    else (s, true)
  else
    match translate s a with
    | (s, none) => (s, true)
    | (s, some (_, e, p)) =>
      let s := beforeWrite s a e
      if w.mask = 2 ^ 128 - 1 then (writeWord s p w.value tag w.poison, false)
      else
        let (s, r) := readMem s p 2
        (writeWord s p (keep r.data) tag (w.poison || badWord r), false)

/-- Codes written word by word; the answer lists the words that met no mapped page. -/
def storeBits (s : State) (xs : List BitPiece) : State × List Nat :=
  let tag := writeTag s
  (xs.foldl addPiece []).foldl (fun (acc : State × List Nat) kw =>
    let r := storePiece acc.1 kw.1 kw.2 tag
    (r.1, if r.2 then acc.2 ++ [kw.1] else acc.2)) (s, [])

/-- One code, with the unused high bits of its 32-bit word at bit address `word`, which are written as zero (R32). -/
def codePieces (at_ width word code : Nat) (poison : Bool) : List BitPiece :=
  let unused := if width < 8 then 32 - perWord width * width else 0
  let x : BitPiece := ⟨at_, width, code % 2 ^ width, poison⟩
  if unused = 0 then [x] else [x, ⟨word + 32 - unused, unused, 0, false⟩]

/-- Every word of a line written poisoned or not (R331, R359), with a given tag. -/
def storeLine (s : State) (a : Nat) (line : Line) (poison : Bool) (tag : Nat) : State × Bool :=
  storeWords 5 s a (bytesOfNat 64 line.toNat) tag poison

/-- Bytes of module memory for a Foreman read of a payload pointer: host memory, or module memory; none where
a read of host memory fails (DMA_FAULT, R436) or a page is unmapped or a word bad (DMA_FAULT too, log 14). -/
def fetchBytes (s : State) (a n : Nat) : State × Option (List Byte) :=
  let (s, bs) := loadSpan s a n
  (s, if bs.all fun b => b.2 == 0 then some (bs.map (·.1)) else none)

end Sys2Proof.Machine
end

