-- ==== Sys2Proof/Machine/Mailbox.lean ====
section
/-! DEFINITION. The Gearo mailboxes: requests, the checks of R396 and R534 that need the payload alone, replies,
refusals, and the way a command of one row is written into the window, started and ended (R391 to R403). -/

namespace Sys2Proof.Machine

/-- A request as the Foreman copies it at GO (R393). -/
structure Req where
  box     : Nat
  op      : Nat
  tag     : Nat
  length  : Nat
  notify  : Bool
  payload : List Byte
  deriving DecidableEq, Repr

/-- How a command ends (R394, R395): status, COND, ITEM and reply payload; or it stays in progress. -/
structure Reply where
  status : Nat := 0
  cond   : Nat := 0
  item   : Nat := 0
  body   : List Byte := []
  busy   : Option InFlight := none
  deriving DecidableEq, Repr

/-- A meaning of one command: the new state and the reply. -/
abbrev Command := State → Req → State × Reply

/-- The command is carried out (status 0x00). -/
def done (body : List Byte) : Reply := { body := body }

/-- A status code of R424. -/
def status (code : Nat) (item : Nat := 0) : Reply := { status := code, item := item }

/-- The second items and figures of a refusal detail (R395). -/
structure Detail where
  item2    : Nat := 0
  limit    : Nat := 0
  required : Nat := 0
  allowed  : Nat := 0
  plan     : Nat := 0xFFFF
  opidx    : Nat := 0xFFFF
  deriving DecidableEq, Repr

/-- A refusal under rule `rule` with its detail (R394, R395). -/
def refuseWith (code rule cond item : Nat) (d : Detail) : Reply :=
  { status := code, cond := cond, item := item,
    body := bytesOfNat 4 d.item2 ++ bytesOfNat 1 d.limit ++ bytesOfNat 3 0 ++ bytesOfNat 8 d.required ++
      bytesOfNat 8 d.allowed ++ bytesOfNat 2 d.plan ++ bytesOfNat 2 d.opidx ++ bytesOfNat 2 rule ++ bytesOfNat 2 0 }

/-- A refusal with no second item. -/
def refuse (code rule cond item : Nat) : Reply := refuseWith code rule cond item {}

/-! ### Refusal codes (R425) -/

def REFUSE_NOT_RUNNING : Nat := 0x80
def REFUSE_JOB_HELD : Nat := 0x81
def REFUSE_JOB_ACTIVE : Nat := 0x82
def REFUSE_STATE : Nat := 0x83
def REFUSE_LIFECYCLE : Nat := 0x84
def REFUSE_AUTH : Nat := 0x85
def REFUSE_FW_SIGNATURE : Nat := 0x86
def REFUSE_FW_ROLLBACK : Nat := 0x87
def REFUSE_FW_FORMAT : Nat := 0x88
def REFUSE_CONFIG_STATE : Nat := 0x89
def REFUSE_CONFIG_VALUE : Nat := 0x8A
def REFUSE_ADMIT_TIME : Nat := 0x90
def REFUSE_ADMIT_ENERGY : Nat := 0x91
def REFUSE_ADMIT_POWER : Nat := 0x92
def REFUSE_JOB_DESC : Nat := 0x93
def REFUSE_STEER : Nat := 0x94
def REFUSE_FOOTPRINT : Nat := 0x95
def REFUSE_STREAM_CYCLE : Nat := 0x96
def REFUSE_SEAL_CONFIG : Nat := 0x97
def REFUSE_SEAL_SPACE : Nat := 0x98
def REFUSE_TENSOR : Nat := 0xA0
def REFUSE_TENSOR_SPACE : Nat := 0xA1
def REFUSE_OPT_SET : Nat := 0xA2
def REFUSE_PIN : Nat := 0xA3
def REFUSE_WAYBILL : Nat := 0xA8
def REFUSE_LOOM_BLOCK : Nat := 0xA9
def REFUSE_VECTOR_OP : Nat := 0xAA
def REFUSE_PLAN : Nat := 0xAB
def REFUSE_COLL_DESC : Nat := 0xAC
def REFUSE_MILL_DESC : Nat := 0xAD
def REFUSE_STEP_ORDER : Nat := 0xAE
def REFUSE_GROUP : Nat := 0xB0
def REFUSE_ROUTE : Nat := 0xB1
def REFUSE_KEY_DUPLICATE : Nat := 0xB2
def REFUSE_KEY_OVERRIDE : Nat := 0xB3
def REFUSE_RESTORE_TARGET : Nat := 0xB8
def REFUSE_RESTORE_MISMATCH : Nat := 0xB9
def REFUSE_PULL_SERVE : Nat := 0xBA
def REFUSE_GATE_BUSY : Nat := 0xC0
def REFUSE_TRACE : Nat := 0xC8

/-! ### Status codes (R424) -/

def BAD_OPCODE : Nat := 1
def WRONG_MAILBOX : Nat := 2
def NOT_READY : Nat := 3
def BAD_LENGTH : Nat := 4
def BAD_RESERVED : Nat := 5
def BAD_ADDRESS : Nat := 6
def DMA_FAULT : Nat := 7
def QUEUE_FULL : Nat := 8
def ABORTED : Nat := 9

/-! ### The command set (R403, R406) -/

/-- One row of R403 with the shape of its payload: bytes in use, extra masks of bytes used in part, and the
offset of a host address. -/
structure CmdShape where
  /-- Mailboxes A to D that take it. -/
  boxes  : List Nat
  /-- Job states that allow it. -/
  states : List Nat
  /-- Payload size. -/
  size   : Nat
  /-- Bytes in use: offset and length. -/
  used   : List (Nat × Nat)
  /-- Bytes in use in part: offset and mask. -/
  part   : List (Nat × Nat) := []
  /-- Offset of a host address. -/
  host   : Option Nat := none
  deriving DecidableEq, Repr

/-- Bytes of a seal descriptor at offset o: 0 to 27 whole, bit 0 of byte 28 (R349). -/
def sealUsed (o : Nat) : List (Nat × Nat) := [(o, 28)]

/-- The command set (R403) with the payloads of R406, R408, R410, R414, R417. -/
def cmdShape : Nat → Option CmdShape
  | 0x0001 => some ⟨[0, 1, 2, 3], [0, 1, 2, 3, 4], 0, [], [], none⟩
  | 0x0002 => some ⟨[0], [0, 1, 2, 3, 4], 40, [(0, 40)], [], some 32⟩
  | 0x0003 => some ⟨[0], [0], 20, [(0, 1), (8, 12)], [], some 8⟩
  | 0x0004 => some ⟨[0], [0], 12, [(0, 12)], [], some 0⟩
  | 0x0005 => some ⟨[0], [0], 8, [(0, 8)], [], none⟩
  | 0x0010 => some ⟨[0], [0], 64, [(0, 23), (24, 8)] ++ sealUsed 32, [(60, 1)], none⟩
  | 0x0011 => some ⟨[0], [1], 32, [(0, 30)] ++ (List.range 8).map (fun p => (32 + 16 * p, 12)), [], none⟩
  | 0x0012 => some ⟨[0, 2], [1, 2, 3, 4], 0, [], [], none⟩
  | 0x0013 => some ⟨[0], [2], 0, [], [], none⟩
  | 0x0014 => some ⟨[0], [3], 0, [], [], none⟩
  | 0x0015 => some ⟨[2], [1, 2, 3], 8, [(0, 2), (4, 4)], [], none⟩
  | 0x0018 => some ⟨[0], [1, 3], 32, sealUsed 0, [(28, 1)], none⟩
  | 0x0019 => some ⟨[0], [1, 3], 14, [(0, 14)], [], none⟩
  | 0x001A => some ⟨[0], [1, 2, 3, 4], 8, [(0, 2), (4, 4)], [], none⟩
  | 0x0020 => some ⟨[2], [1], 64, [(0, 7), (8, 16)], [], none⟩
  | 0x0021 => some ⟨[2], [1, 2, 3], 8, [(0, 5), (6, 2)], [], none⟩
  | 0x0022 => some ⟨[2], [1, 2, 3], 40, [(0, 1), (8, 24)], [], none⟩
  | 0x0023 => some ⟨[2], [1, 2, 3], 4, [(0, 4)], [], none⟩
  | 0x0028 => some ⟨[2], [1], 40, [(0, 2), (8, 544)], [], none⟩
  | 0x0029 => some ⟨[2], [1], 16, [(0, 1), (2, 2), (8, 8)], [], none⟩
  | 0x0030 => some ⟨[1], [0, 1, 2, 3, 4], 28, [(0, 1), (2, 12), (16, 12)], [], none⟩
  | 0x0038 => some ⟨[2], [0, 1, 2, 3], 16, [(0, 2), (4, 12)], [], none⟩
  | 0x0039 => some ⟨[2], [0, 1, 2, 3, 4], 16, [(0, 2), (4, 12)], [], none⟩
  | 0x003A => some ⟨[2], [1, 2, 3], 24, [(0, 3), (8, 11), (20, 2)], [(19, 3)], none⟩
  | 0x0040 => some ⟨[0], [0, 1, 2, 3, 4], 2, [(0, 2)], [], none⟩
  | 0x0041 => some ⟨[0], [0, 1, 2, 3, 4], 3, [(0, 3)], [], none⟩
  | 0x0042 => some ⟨[2], [0, 1, 2, 3, 4], 4, [(0, 4)], [], none⟩
  | 0x0048 => some ⟨[3], [0, 1, 2, 3, 4], 12, [(0, 1), (4, 8)], [], none⟩
  | 0x0049 => some ⟨[3], [0, 1, 2, 3, 4], 4, [(0, 4)], [], none⟩
  | 0x004A => some ⟨[2], [0, 1, 2, 3, 4], 12, [(0, 12)], [], none⟩
  | _ => none

/-- A payload of this LENGTH suits the command (log 15): the payload's size, or that size padded to a multiple of
8; JOB_ADMIT's size counts its plans, and a waybill image has 32 to 544 bytes. -/
def lengthSuits (op : Nat) (sh : CmdShape) (payload : List Byte) (n : Nat) : Bool :=
  if op = 0x0028 then decide (40 ≤ n) && decide (n ≤ 552)
  else if op = 0x0011 then
    decide (32 ≤ n) && (n == 32 + 16 * min (byteAt payload 29).toNat 8 || n == 160)
  else n == sh.size || n == (sh.size + 7) / 8 * 8

/-- The bits of payload byte i that are in use. -/
def usedMask (sh : CmdShape) (i : Nat) : Nat :=
  if sh.used.any fun u => decide (u.1 ≤ i) && decide (i < u.1 + u.2) then 0xFF
  else (sh.part.find? fun e => e.1 == i).elim 0 (·.2)

/-- The first payload byte with a reserved bit set. -/
def firstReserved (sh : CmdShape) : List Byte → Nat → Option Nat
  | [], _ => none
  | b :: bs, i => if b.toNat &&& (255 - usedMask sh i) = 0 then firstReserved sh bs (i + 1) else some i

/-- The running image's LC_MASK excludes the present life-cycle state (R492). -/
def maskedOut (s : State) : Bool := !bitOf s.ident.lcMask (lifecycleOf s.fuses)

/-- The module's stage allows the command (R397, R492). -/
def stageAllows (s : State) (box op : Nat) : Bool :=
  if op = 1 then true
  else if s.ident.stage = 2 then !maskedOut s || [2, 3, 4].contains op
  else s.ident.stage == 0 && op == 4 && box == 0

/-- The checks of R396, in order; none where the request passes. `hdr` is the header's 128 bits. -/
def checkRequest (s : State) (r : Req) (hdr : Nat) : Option Reply :=
  match cmdShape r.op with
  | none => some (status BAD_OPCODE)
  | some sh =>
    if !sh.boxes.contains r.box then some (status WRONG_MAILBOX)
    else if !stageAllows s r.box r.op then some (status NOT_READY)
    else if !lengthSuits r.op sh r.payload r.length then some (status BAD_LENGTH)
    else
      let hb := (List.range 16).find? fun i =>
        decide ((if i < 6 then 0 else if i = 6 then natFld hdr 55 49 else natFld hdr (8 * i + 7) (8 * i)) ≠ 0)
      match hb with
      | some i => some (status BAD_RESERVED i)
      | none =>
        match firstReserved sh (if r.op = 0x0028 then r.payload.take 8 else r.payload) 0 with
        | some i => some (status BAD_RESERVED (16 + i))
        | none =>
          match sh.host with
          | none => none
          | some o =>
            let a := leAt r.payload o 8
            if r.op = 3 ∧ leAt r.payload 16 4 = 0 then none
            else if a % 8 = 0 ∧ inHost a then none else some (status BAD_ADDRESS (16 + o))

/-- A bfloat16 code is a positive normal number. -/
def posNormal (code : Nat) : Bool := decide (0x80 ≤ code) && decide (code ≤ 0x7F7F)

/-- Units a level of GATE has: 1 die, 2 guild, 3 workshop, 4 loom (R459). -/
def gateUnits (level : Nat) : Nat := [0, 2, 16, 128, 512].getD level 0

/-- The first of some (offset, failing) pairs. -/
def firstBad : List (Nat × Bool) → Option Nat
  | [] => none
  | (o, b) :: rest => if b then some o else firstBad rest

/-- R534's rows that the payload decides alone (the others are checked by the commands they name). -/
def checkRange (r : Req) : Option Reply :=
  let b := fun i => (byteAt r.payload i).toNat
  let h := fun i => leAt r.payload i 2
  let row := fun (code n : Nat) (l : List (Nat × Bool)) => (firstBad l).map fun o => refuse code 534 n o
  match r.op with
  | 0x0005 => row REFUSE_CONFIG_VALUE 1 [(0, decide (7 < b 0)), (1, (b 0).testBit 1 && !(1 ≤ b 1 && b 1 ≤ 3)),
      (2, (b 0).testBit 0 && h 2 == 0xFFFF)]
  | 0x0015 => row REFUSE_JOB_DESC 2 [(0, decide (3 < b 0)),
      (1, (b 0).testBit 0 && !(decide (-32 ≤ signedOf 8 (b 1)) && decide (signedOf 8 (b 1) ≤ 32)))]
  | 0x0003 => row REFUSE_LIFECYCLE 3 [(0, decide (4 < b 0))]
  | 0x0019 => row REFUSE_RESTORE_TARGET 4 [(0, decide (1 < b 0))]
  | 0x0023 => row REFUSE_PIN 6 [(2, decide (8 < b 2) && b 2 != 15), (3, decide (8 < b 3) && b 3 != 15)]
  | 0x0028 => row REFUSE_WAYBILL 7 [(0, decide (4094 < h 0))]
  | 0x0029 => row REFUSE_PLAN 8 [(0, decide (7 < b 0)), (2, h 2 == 0 || decide (65533 < h 2))]
  | 0x0038 => row REFUSE_GROUP 12 [(1, decide (1 < b 1))]
  | 0x003A => row REFUSE_KEY_OVERRIDE 13 [(2, decide (1 < b 2))]
  | 0x0040 => row REFUSE_CONFIG_VALUE 14 [(0, decide (2 < b 0)), (1, decide (1 < b 1))]
  | 0x0041 => row REFUSE_CONFIG_VALUE 15 [(0, decide (h 0 < 400) || decide (1250 < h 0)), (2, decide (1 < b 2))]
  | 0x0042 => row REFUSE_GATE_BUSY 16 [(0, b 0 == 0 || decide (4 < b 0)), (1, decide (1 < b 1)),
      (2, decide (gateUnits (b 0) ≤ h 2))]
  | 0x0048 => row REFUSE_CONFIG_VALUE 17 [(0, b 0 == 0 || decide (13 < b 0))]
  | _ => none

/-- Opcodes of job commands, which need Manufacture or Deployed (R403, R487, log 15). -/
def isJobCommand (op : Nat) : Bool := decide (0x10 ≤ op) && decide (op ≤ 0x3A)

/-- The life-cycle state and the job state allow the command (R403, R4). -/
def checkState (s : State) (r : Req) : Option Reply :=
  let lc := lifecycleOf s.fuses
  if isJobCommand r.op && !(lc == 1 || lc == 2) then some (refuse REFUSE_LIFECYCLE 403 0 0)
  else
    match cmdShape r.op with
    | none => none
    | some sh =>
      if sh.states.contains s.job.state then none
      else if r.op = 0x0010 then some (refuse REFUSE_JOB_ACTIVE 4 0 0)
      else some (refuse REFUSE_STATE 403 0 0)

/-! ### Windows, GO and the reply (R391 to R394) -/

/-- Mailbox m. -/
def boxAt (s : State) (m : Nat) : Mailbox := mapGet s.mbox m Mailbox.idle

/-- Mailbox m replaced. -/
def setBox (s : State) (m : Nat) (b : Mailbox) : State := { s with mbox := sparseSet Mailbox.idle s.mbox m b }

/-- The host can reach the module's registers (R430, R447): link up, memory decode on, in D0, rails on. -/
def hostReaches (s : State) : Bool := s.pcie.linkUp && s.pcie.memDecode && !s.pcie.d3hot && !stopped s

/-- n host writes to a BUSY mailbox are ignored and counted (R392, R393). -/
def ignoreWrites (s : State) (m n : Nat) : State :=
  let b := boxAt s m
  setBox s m { b with ignored := min 255 (b.ignored + n) }

/-- Bytes of the window. -/
def windowGet (b : Mailbox) (off n : Nat) : List Byte := cellsGet b.window off n

/-- The request in a window. -/
def requestOf (s : State) (m : Nat) : Req × Nat :=
  let b := boxAt s m
  let hdr := natOfBytes (windowGet b 0 16)
  let len := natFld hdr 47 32
  (⟨m, natFld hdr 15 0, natFld hdr 31 16, len, hdr.testBit 48, windowGet b 16 (min len 4064)⟩, hdr)

/-- The 128 bits of a reply header (R394). -/
def replyHeader (r : Req) (rep : Reply) : BitVec 128 :=
  packRec 128 [(15, 0, r.op), (31, 16, r.tag), (47, 32, (rep.body.take 4064).length), (48, 48, bit r.notify),
    (71, 64, rep.status), (79, 72, rep.cond), (127, 96, rep.item)]

/-- Reply header and payload go into the window, and STATE is DONE (R393, R394). -/
def putReply (s : State) (r : Req) (rep : Reply) : State :=
  let b := boxAt s r.box
  let w := cellsPut (cellsPut b.window 0 (bytesOfNat 16 (replyHeader r rep).toNat)) 16 (rep.body.take 4064)
  setBox s r.box { b with window := w, state := 2, inflight := none }

/-- EV_MB_DONE, where the request asked for it (R402). -/
def notifyDone (s : State) (r : Req) (rep : Reply) : State :=
  if r.notify then
    raise s { code := 2, src := 0, argS := r.box, a0 := r.op + r.tag * 65536, a1 := rep.status, a2 := rep.item }
  else s

/-- The command of mailbox m ends: the reply, its trace record, EV_MB_DONE (R393, R394, R402, R502). -/
def finishCommand (s : State) (r : Req) (rep : Reply) : State :=
  notifyDone (trace (putReply s r rep) 1 1 r.op (r.box * 65536 + r.tag) rep.status) r rep

/-- A started command runs `cmd` after the checks, and its reply is written unless it stays in progress
(R393, R396, R534, R403). -/
def runCommand (cmd : Command) (s : State) (m : Nat) : State :=
  let (r, hdr) := requestOf s m
  let s := trace s 1 0 r.op (m * 65536 + r.tag) 0
  match checkRequest s r hdr with
  | some rep => finishCommand s r rep
  | none =>
    match checkRange r with
    | some rep => finishCommand s r rep
    | none =>
      match checkState s r with
      | some rep => finishCommand s r rep
      | none =>
        let (s, rep) := cmd s r
        match rep.busy with
        | some f => setBox s m { boxAt s m with inflight := some f }
        | none => finishCommand s r rep

/-- GO: the mailbox becomes BUSY and IGNORED is cleared (R392, R393). -/
def goBusy (s : State) (m : Nat) : State := setBox s m { boxAt s m with state := 1, ignored := 0 }

/-- The request's header as the host writes it (R394). -/
def requestHeader (op : Nat) (rq : MbReq) : Nat :=
  op + rq.tag.toNat * 2 ^ 16 + rq.length.toNat * 2 ^ 32 + bit rq.notify * 2 ^ 48 +
    (rq.rsv.toNat % 2 ^ 15) * 2 ^ 49 + rq.rsv.toNat / 2 ^ 15 * 2 ^ 64

/-- What the host puts into its own memory before the command (log 5). -/
def placeHost (s : State) (ws : List HostWrite) : State :=
  ws.foldl (fun s w => hostPut s w.addr.toNat w.bytes) s

/-- One mailbox row: the host places its data, writes header and payload into the window and writes GO; a
BUSY mailbox ignores and counts the writes (64-bit writes, log 4). -/
def mailboxRow (op : Nat) (cmd : Command) (rq : MbReq) (s : State) : State :=
  let m := rq.mailbox.val
  let s := placeHost s rq.host
  if !hostReaches s then s
  else if (boxAt s m).state = 1 then ignoreWrites s m (3 + ceilDiv rq.payload.length 8)
  else
    let b := boxAt s m
    let w := cellsPut (cellsPut b.window 0 (bytesOfNat 16 (requestHeader op rq))) 16 (rq.payload.take 4064)
    runCommand cmd (goBusy (setBox s m { b with window := w }) m) m

/-- A request whose payload byte `off` is the row's own sub-action. -/
def withAction (rq : MbReq) (off v : Nat) : MbReq :=
  { rq with payload := fitBytes rq.payload off ++ [BitVec.ofNat 8 v] ++ rq.payload.drop (off + 1) }

end Sys2Proof.Machine
end

