-- ==== Sys2Proof/Machine/Link.lean ====
section
/-! DEFINITION. The link layer and the routes: frames, trailers and credits, the choice of a path slot, sending,
receiving, and a port going DOWN or UP (R308 to R321, R323). -/

namespace Sys2Proof.Machine

/-! ### Frame fields (R312, R314) -/

def fType (f : Frame) : Nat := fld f.header 3 0
def fLast (f : Frame) : Bool := bitOf f.header 4
def fDest (f : Frame) : Nat := fld f.header 23 8
def fSrc (f : Frame) : Nat := fld f.header 39 24
def fGroup (f : Frame) : Nat := fld f.header 47 40
def fLen (f : Frame) : Nat := fld f.header 62 56
def fGen (f : Frame) : Nat := fld f.header 95 64
def fTag (f : Frame) : Nat := fld f.header 127 96
def fOp (f : Frame) : Nat := fld f.header 159 128
def fPhase (f : Frame) : Nat := fld f.header 159 156
def fOpNum (f : Frame) : Nat := fld f.header 155 128
def fOffset (f : Frame) : Nat := fld f.header 191 160
def fPmap (f : Frame) : Nat := fld f.header 255 192
def tCrc (f : Frame) : Nat := fld f.trailer 31 0
def tLseq (f : Frame) : BitVec 32 := BitVec.ofNat 32 (fld f.trailer 63 32)
def tAck (f : Frame) : BitVec 32 := BitVec.ofNat 32 (fld f.trailer 95 64)
def tCredit (f : Frame) (vc : Nat) : Nat := fld f.trailer (8 * vc + 103) (8 * vc + 96)

/-- The fields of a frame the module sends; SRC and the path tag are added on the way out. -/
structure FrameArgs where
  type   : Nat
  last   : Bool := true
  dest   : Nat
  group  : Nat := 0
  gen    : Nat := 0
  tag    : Nat := 0
  op     : Nat
  offset : Nat := 0
  pmap   : Nat := 0
  lines  : List Line := []
  deriving DecidableEq, Repr

/-- The module's own fabric address (R316). -/
def ownAddr (s : State) : Nat := s.ident.fabricAddr.toNat

/-- A frame from its fields, its trailer not yet made (R312). -/
def mkFrame (s : State) (a : FrameArgs) : Frame :=
  ⟨packRec 256 [(3, 0, a.type), (4, 4, bit a.last), (23, 8, a.dest), (39, 24, ownAddr s), (47, 40, a.group),
     (62, 56, a.lines.length), (95, 64, a.gen), (127, 96, a.tag), (159, 128, a.op), (191, 160, a.offset),
     (255, 192, a.pmap)], a.lines, 0⟩

/-- The virtual channel of a frame type (R313); none for LINK and for a reserved type. -/
def vcOf : Nat → Option Nat
  | 0 => some 1
  | 1 => some 0
  | 2 => some 2
  | 3 => some 3
  | _ => none

/-- CRC-32 over the header, the payload and trailer bits [127:32] (R314). -/
def frameCrc (f : Frame) : Nat :=
  crc32 (bytesOfNat 32 f.header.toNat ++ (f.lines.map fun l => bytesOfNat 64 l.toNat).flatten ++
    bytesOfNat 12 (f.trailer.toNat / 2 ^ 32))

/-! ### Ports (R310, R315) -/

def portAt (s : State) (p : Nat) : PortSt := mapGet s.fab.ports p PortSt.down

def setPort (s : State) (p : Nat) (x : PortSt) : State :=
  { s with fab := { s.fab with ports := sparseSet PortSt.down s.fab.ports p x } }

def portUp (s : State) (p : Nat) : Bool := (portAt s p).state == 2

/-- Receive buffers in lines, VC0 to VC3 (R315). -/
def vcBuffers : List Nat := [4096, 2048, 512, 1536]

/-- A list with entry i changed by f. -/
def updNth (l : List Nat) (i : Nat) (f : Nat → Nat) : List Nat := l.set i (f (l.getD i 0))

/-! ### Groups and routes (R317, R318, R323) -/

def gPaths (g : GroupRec) : Nat := fld g.header 11 8
def gValid (g : GroupRec) : Bool := bitOf g.header 12
def gNmemb (g : GroupRec) : Nat := fld g.header 30 16
def gGen (g : GroupRec) : BitVec 32 := BitVec.ofNat 32 (fld g.header 63 32)
def gSelf (g : GroupRec) : Nat := fld g.header 78 64
def memberAddr (g : GroupRec) (i : Nat) : Nat := fld (g.members.getD i 0) 15 0
def memberRank (g : GroupRec) (i : Nat) : Nat := fld (g.members.getD i 0) 39 16

/-- The record of a group that is VALID. -/
def groupOf (s : State) (g : Nat) : Option GroupRec :=
  match mapFind s.fab.groups g with
  | some r => if gValid r then some r else none
  | none => none

/-- Member index of an address in a group. -/
def memberIndex (g : GroupRec) (addr : Nat) : Option Nat :=
  (List.range (gNmemb g)).find? fun i => memberAddr g i == addr

/-- Addresses of the members other than SELF, in member order. -/
def otherMembers (g : GroupRec) : List Nat :=
  ((List.range (gNmemb g)).filter fun i => i != gSelf g).map (memberAddr g)

/-- Slot k of a route entry: port and path tag where VALID (R317). -/
def routeSlot (e : BitVec 64) (k : Nat) : Option (Nat × Nat) :=
  let w := fld e (16 * k + 15) (16 * k)
  if w.testBit 5 then some (natFld w 4 0, natFld w 15 8) else none

/-- The PATHS mask a frame must keep to: its group's, all slots for 0 or for a frame of no group (R318, R323). -/
def framePaths (s : State) (f : Frame) : Nat :=
  let grouped := fType f == 1 || (fType f == 2 && fOp f != 0xFFFFFFFE)
  if grouped then
    match mapFind s.fab.groups (fGroup f) with
    | some g => if gPaths g = 0 then 15 else gPaths g
    | none => 15
  else 15

/-- Usable slots of a frame, in slot order (R318). -/
def usableSlots (s : State) (f : Frame) : List (Nat × Nat) :=
  let e := mapGet s.fab.routes (fDest f) 0
  (List.range 4).filterMap fun k =>
    match routeSlot e k with
    | some (p, t) => if portUp s p && (framePaths s f).testBit k then some (p, t) else none
    | none => none

/-- The slot a frame takes: usable slot (OP + ⌊OFFSET/64⌋) mod u (R318). -/
def chooseSlot (s : State) (f : Frame) : Option (Nat × Nat) :=
  let u := usableSlots s f
  if u.isEmpty then none else u[(fOp f + fOffset f / 64) % u.length]?

/-- A frame joins the frames to send; with no usable slot its destination's timer starts (R318, R319). A frame
to the module itself never leaves it (R316). -/
def enqueue (s : State) (f : Frame) : State :=
  if fDest f = ownAddr s then s
  else
    match chooseSlot s f with
    | some (p, t) =>
      let f := { f with header := setFld f.header 55 48 t }
      { s with fab := { s.fab with txq := s.fab.txq ++ [⟨f, some p⟩], noRoute := mapErase s.fab.noRoute (fDest f) } }
    | none =>
      let nr := match mapFind s.fab.noRoute (fDest f) with
        | some _ => s.fab.noRoute
        | none => mapSet s.fab.noRoute (fDest f) (timebase s, none)
      { s with fab := { s.fab with txq := s.fab.txq ++ [⟨f, none⟩], noRoute := nr } }

/-- A frame built and queued. -/
def sendFrame (s : State) (a : FrameArgs) : State := enqueue s (mkFrame s a)

/-- Frames without a port get one where a slot has become usable (R318). -/
def rechoose (s : State) : State :=
  let step := fun (acc : State × List TxFrame) (t : TxFrame) =>
    match t.port with
    | some _ => (acc.1, acc.2 ++ [t])
    | none =>
      match chooseSlot acc.1 t.frame with
      | some (p, tag) =>
        ({ acc.1 with fab := { acc.1.fab with noRoute := mapErase acc.1.fab.noRoute (fDest t.frame) } },
          acc.2 ++ [⟨{ t.frame with header := setFld t.frame.header 55 48 tag }, some p⟩])
      | none => (acc.1, acc.2 ++ [t])
  let (s', q) := s.fab.txq.foldl step (s, [])
  { s' with fab := { s'.fab with txq := q } }

/-! ### Sending on a port (R314, R315) -/

/-- A frame put on the link of port p as its next: sequence number, acknowledgement, credits returned, CRC. -/
def putOnWire (s : State) (p : Nat) (f : Frame) : State × Frame :=
  let x := portAt s p
  let cr := x.owed.map (min 255)
  let tr := packRec 128 [(63, 32, x.nextSeq.toNat), (95, 64, x.lastIn.toNat), (103, 96, cr.getD 0 0),
    (111, 104, cr.getD 1 0), (119, 112, cr.getD 2 0), (127, 120, cr.getD 3 0)]
  let f := { f with trailer := tr }
  let f := { f with trailer := setFld tr 31 0 (frameCrc f) }
  let x := { x with owed := x.owed.map fun o => o - 255, nextSeq := x.nextSeq + 1, wire := [f],
                    unacked := x.unacked ++ [⟨f, (vcOf (fType f)).getD 4, 0⟩] }
  let s := setPort s p x
  let s := bump s (0xE40 + p)
  (countEvents s 14 0 (fLen f), f)

/-- The port holds the credits of a frame on vc and fewer than 2^16 unacknowledged frames. -/
def canSend (s : State) (p vc : Nat) (f : Frame) : Bool :=
  let x := portAt s p
  decide (fLen f + 1 ≤ x.credits.getD vc 0) && decide (x.unacked.length < 65536) && x.state == 2

/-- The first waiting frame of port p on virtual channel vc that can be sent. -/
def readyOn (s : State) (p vc : Nat) : Bool :=
  match s.fab.txq.find? fun t => t.port == some p && vcOf (fType t.frame) == some vc with
  | some t => canSend s p vc t.frame
  | none => false

/-- The virtual channel that port p serves next: VC2 first, the others in turn (R315). -/
def nextVc (s : State) (p : Nat) : Option Nat :=
  let last := (portAt s p).lastVc
  let order := match last with
    | 0 => [2, 1, 3, 0]
    | 1 => [2, 3, 0, 1]
    | _ => [2, 0, 1, 3]
  order.find? (readyOn s p)

/-- Frames of port p replayed from the first unacknowledged one (R314). -/
def replayPort (s : State) (p : Nat) : State :=
  let x := portAt s p
  let s := addCounter s (0xE88 + p) x.unacked.length
  setPort s p { x with unacked := x.unacked.map fun u => { u with replays := u.replays + 1 },
                       wire := x.unacked.map (·.frame) }

/-- FRAME_SEND of the waiting frame at `index`: sent when its port serves its channel next and it is the first
of that channel there; an index beyond the waiting frames replays the frames of port (index − count) mod 24. -/
def sendWaiting (s : State) (index : Nat) : State :=
  let s := rechoose s
  match s.fab.txq[index]? with
  | none =>
    let p := (index - s.fab.txq.length) % 24
    if portUp s p && !(portAt s p).unacked.isEmpty then replayPort s p else s
  | some t =>
    match t.port, vcOf (fType t.frame) with
    | some p, some vc =>
      let earlier := (s.fab.txq.take index).any fun u => u.port == some p && vcOf (fType u.frame) == some vc
      if earlier || nextVc s p != some vc then s
      else
        let s := { s with fab := { s.fab with txq := s.fab.txq.eraseIdx index } }
        let x := portAt s p
        let s := setPort s p { x with credits := updNth x.credits vc (· - (fLen t.frame + 1)),
                                      lastVc := if vc = 2 then x.lastVc else vc }
        (putOnWire s p t.frame).1
    | _, _ => s

/-- A LINK frame that returns credits when nothing else is due on the port (R315). -/
def sendLink (s : State) (p : Nat) : State :=
  let x := portAt s p
  if x.state == 2 && x.owed.any (· != 0) && (nextVc s p).isNone && decide (x.unacked.length < 65536) then
    (putOnWire s p ⟨packRec 256 [(3, 0, 0xF), (4, 4, 1), (39, 24, ownAddr s)], [], 0⟩).1
  else s

/-! ### A port goes DOWN or UP (R310, R314, R318) -/

/-- Ports may train: Ready, address set, clocked from the crystal (R310, R406, R441, R468). -/
def portsTrain (s : State) : Bool :=
  foremanUp s && s.ident.fabricAddr != 0xFFFF && !s.clk.onOsc && !stopped s

/-- A port goes DOWN: its frames, unacknowledged or waiting, are chosen a slot afresh (R318). One that retrains by itself is in TRAINING
at once, since it has its cable (R310, R314; DEDUCED, log 90). -/
def portDown (s : State) (p : Nat) (retrains : Bool) : State :=
  let x := portAt s p
  if x.state = 0 then s
  else
    let back := (x.unacked.filter fun u => u.vc < 4).map fun u => (⟨{ u.frame with trailer := 0 }, none⟩ : TxFrame)
    let q := s.fab.txq.map fun t => if t.port == some p then { t with port := none } else t
    let training := retrains && portsTrain s
    let s := setPort s p { PortSt.down with wasUp := retrains, wire := x.wire, state := bit training }
    let s := { s with fab := { s.fab with txq := back ++ q } }
    let s := trace s 8 0 p 0 0
    let s := if training then trace s 8 1 p 0 0 else s
    let s := rechoose s
    let nr := s.fab.txq.foldl (fun nr t =>
      if t.port.isNone && (mapFind nr (fDest t.frame)).isNone then mapSet nr (fDest t.frame) (timebase s, none) else nr)
      s.fab.noRoute
    { s with fab := { s.fab with noRoute := nr } }

/-- Every port goes DOWN at once and does not retrain by itself (R310, R447, R467, R491). -/
def allPortsDown (s : State) : State := (List.range 24).foldl (fun s p => portDown s p false) s

/-- A port completes training and the exchange of initial credits (R310, R314, R315). -/
def portTrained (s : State) (p : Nat) : State :=
  let x := portAt s p
  if !portsTrain s || x.state == 2 then s
  else
    let s := if x.state = 1 then s else trace s 8 1 p 0 0
    let s := setPort s p { PortSt.down with state := 2, credits := vcBuffers, wire := x.wire }
    let s := trace s 8 2 p 0 0
    let s := if x.wasUp then raise s { code := 0x5002, src := 6, argS := p } else s
    rechoose s

/-- A failure of the link: the port goes DOWN, raises EV_LINK_DOWN and retrains by itself (R314). -/
def linkFailed (s : State) (p kind : Nat) : State :=
  if portUp s p then raise (portDown s p true) { code := 0x5001, src := 6, argS := p, a0 := kind } else s

/-! ### Receiving (R314 to R316) -/

/-- a is not later than b in serial-number arithmetic modulo 2^32. -/
def seqLe (a b : BitVec 32) : Bool := decide ((b - a).toNat < 2 ^ 31)

/-- The trailer of an accepted frame acknowledges frames and returns credits (R314, R315). -/
def takeTrailer (x : PortSt) (f : Frame) : PortSt :=
  { x with unacked := x.unacked.filter fun u => !seqLe (tLseq u.frame) (tAck f),
           credits := (List.range 4).map fun v => x.credits.getD v 0 + tCredit f v,
           lastIn := tLseq f, awaiting := false }

/-- What the link layer makes of an arriving frame: nothing more to do, or the frame to act on. A frame that
fails its CRC is discarded and counted and a replay is awaited; a frame out of sequence is not accepted. -/
def linkReceive (s : State) (p : Nat) (f : Frame) : State × Option Frame :=
  let x := portAt s p
  if x.state != 2 || stopped s then (s, none)
  else if frameCrc f != tCrc f then (setPort (bump s (0xE70 + p)) p { x with awaiting := true }, none)
  else if tLseq f != x.lastIn + 1 then (s, none)
  else
    let x := takeTrailer x f
    let x := match vcOf (fType f) with
      | some v => { x with owed := updNth x.owed v (· + (fLen f + 1)) }
      | none => x
    let s := bump (setPort s p x) (0xE58 + p)
    let s := countEvents s 14 0 (fLen f)
    if fType f = 0xF then (s, none)
    else
      let s := { s with fab := { s.fab with lastFrame := mapSet s.fab.lastFrame (fSrc f) (timebase s) } }
      if fDest f ≠ ownAddr s then (bump s 0xEC0, none)
      else if (vcOf (fType f)).isNone then (bump s 0xEC1, none)
      else (s, some f)

/-- The lines of one more frame join those of a message or an item, rising by offset, with its marks. A line is taken once; the
flag says that one was a repeat (R321). -/
def joinLines (lines : List (Nat × Line)) (marks : List Nat) (f : Frame) : List (Nat × Line) × List Nat × Bool :=
  let o := fOffset f
  let before := lines.takeWhile fun l => decide (l.1 < o)
  let rest := lines.dropWhile fun l => decide (l.1 < o)
  let here := rest.takeWhile fun l => decide (l.1 < o + fLen f)
  let after := rest.dropWhile fun l => decide (l.1 < o + fLen f)
  let new := (List.range (fLen f)).map fun i => (o + i, (mapFind here (o + i)).getD (f.lines.getD i 0))
  let add := ((List.range (fLen f)).filter fun i => (fPmap f).testBit i && (mapFind here (o + i)).isNone).map (o + ·)
  (before ++ new ++ after, marks ++ add, !here.isEmpty)

end Sys2Proof.Machine
end

