-- ==== Sys2Proof/Machine/Faults.lean ====
section
/-! DEFINITION. The step fault log (R225 to R227) and the draw units (R290 to R295). -/

namespace Sys2Proof.Machine

/-- A fault as it is recorded (R226). -/
structure FaultArgs where
  kind   : Nat
  cls    : Nat
  slot   : Nat := 0
  carter : Nat := 0
  op     : Nat
  first  : Nat
  last   : Nat
  addr   : Nat := 0
  /-- A fault of any kind in a class 2 run that is discarded (R225). -/
  discarded : Bool := false
  /-- Raising block of the event (R422): 3 carter, 2 mill, 5 collective engine. -/
  src    : Nat := 3
  deriving DecidableEq, Repr

/-- The fault record (R226). -/
def faultRecord (s : State) (a : FaultArgs) : BitVec 256 :=
  packRec 256 [(3, 0, a.kind), (5, 4, a.cls), (7, 6, a.slot), (17, 8, a.carter), (47, 32, a.op), (95, 48, a.first),
    (143, 96, a.last), (207, 144, a.addr), (255, 208, s.step.number.toNat)]

/-- The event of a fault, once per step for each event, at the first fault detected (R225). -/
def raiseFault (s : State) (a : FaultArgs) (r : BitVec 256) : State :=
  let stream := a.kind == 3 || a.discarded
  if (if stream then s.step.streamRaised else s.step.poisonRaised) then s
  else
    let s := if stream then { s with step := { s.step with streamRaised := true } }
             else { s with step := { s.step with poisonRaised := true } }
    raise s { code := if stream then 0x3002 else 0x3001, src := a.src, argS := a.op, a0 := fld r 31 0,
              a1 := a.first % 2 ^ 32, a2 := a.addr % 2 ^ 32 }

/-- Records r and q are of one fault's range: q begins where r ends (R227). -/
def extendsRecord (r q : BitVec 256) : Bool :=
  fld r 47 0 == fld q 47 0 && fld r 143 96 + 1 == fld q 95 48 && fld r 255 208 == fld q 255 208

/-- A fault is recorded (R225, R227): it extends the record of the position before where `prev` says that position is of the same
unit or run, and the record of the position after where `next` says so of that one; the log keeps 1,024 records and counts the
rest; the step is invalid. -/
def logFault (s : State) (a : FaultArgs) (prev : Bool) (next : Bool := false) : State :=
  let r := faultRecord s a
  let s := { s with step := { s.step with invalid := true } }
  let fs := s.step.faults
  let before := if prev then fs.findIdx? fun q => extendsRecord q r else none
  let after := if next then fs.findIdx? fun q => extendsRecord r q else none
  let keep := fun (l : List (BitVec 256)) => { s with step := { s.step with faults := l } }
  match before, after with
  | some i, some j => keep ((fs.set i (setFld (fs.getD i 0) 143 96 (fld (fs.getD j 0) 143 96))).eraseIdx j)
  | some i, none => keep (fs.set i (setFld (fs.getD i 0) 143 96 a.last))
  | none, some j => keep (fs.set j (setFld r 143 96 (fld (fs.getD j 0) 143 96)))
  | none, none =>
    -- a range that the full log has counted already grows (R227)
    match (if prev then s.step.lostRanges.findIdx? fun q => extendsRecord q r else none) with
    | some i => { s with step := { s.step with
        lostRanges := s.step.lostRanges.set i (setFld (s.step.lostRanges.getD i 0) 143 96 a.last) } }
    | none => logFault.add s a r
where
  /-- One more record. -/
  add (s : State) (a : FaultArgs) (r : BitVec 256) : State :=
    let s := if s.step.faults.length < 1024 then { s with step := { s.step with faults := s.step.faults ++ [r] } }
             else bump { s with step := { s.step with faultsLost := s.step.faultsLost + 1,
                                                      lostRanges := s.step.lostRanges ++ [r] } } 0xEBE
    raiseFault (trace s 6 a.kind a.op (a.first % 2 ^ 32) (a.last % 2 ^ 32)) a r

/-- What the log is sorted by: OP, CLASS, FIRST_SEQ (R227), then every other field but CARTER and STEP, so that the sorted log
depends on nothing else. -/
def faultKey (r : BitVec 256) : Nat :=
  (((((fld r 47 32 * 4 + fld r 5 4) * 2 ^ 48 + fld r 95 48) * 4 + fld r 7 6) * 16 + fld r 3 0) * 2 ^ 48 + fld r 143 96) * 2 ^ 64 +
    fld r 207 144

/-- A record takes its place in the sorted log; one that agrees with a kept one in every field except CARTER is dropped
(R227). -/
def insertFault (r : BitVec 256) : List (BitVec 256) → List (BitVec 256)
  | [] => [r]
  | q :: rest =>
    if faultKey r < faultKey q then r :: q :: rest
    else if faultKey r = faultKey q then q :: rest
    else q :: insertFault r rest

/-- The step fault log sorted at the boundary, the discarded copies counted (R227). -/
def sortFaults (s : State) : State :=
  let fs := s.step.faults.foldl (fun l r => insertFault r l) []
  addCounter { s with step := { s.step with faults := fs } } 0xEBD (s.step.faults.length - fs.length)

/-! ### Draws (R291, R295, R300) -/

/-- The key of class c at a unit: the override where one is in force for a user-class stream (R300). -/
def drawKey (s : State) (unit cls : Nat) : Nat :=
  match (if cls = 3 then mapFind s.job.overrides unit else none) with
  | some k => k.toNat
  | none => streamKey s.job.seed.toNat s.job.rank.toNat cls unit

/-- The counter of class c at a unit. -/
def drawCount (s : State) (unit cls : Nat) : Nat := (mapGet s.job.draws (4 * unit + cls) 0).toNat

/-- The counter advanced by k (R291, R298). -/
def advanceDraws (s : State) (unit cls k : Nat) : State :=
  let n := BitVec.ofNat 64 (drawCount s unit cls + k)
  { s with job := { s.job with draws := sparseSet 0 s.job.draws (4 * unit + cls) n } }

/-- The i-th next draw, without taking it. -/
def drawPeek (s : State) (unit cls i : Nat) : Nat :=
  laneDraw (drawKey s unit cls) ((drawCount s unit cls + i) % 2 ^ 64)

/-- One draw (R291). -/
def draw (s : State) (unit cls : Nat) : State × Nat := (advanceDraws s unit cls 1, drawPeek s unit cls 0)

end Sys2Proof.Machine
end

