-- ==== Sys2Proof/Machine/Slices.lean ====
section
/-! DEFINITION. What the Assayer's slices know and gather: tensor descriptors and scale histories, steering descriptors,
the format and scale a tensor has in a step, and the transient counters of a step (R33, R34, R127 to R132, R165, R355, R408). -/

namespace Sys2Proof.Machine

/-! ### Tensor descriptors (R408) -/

def tdFmt (d : BitVec 512) : Nat := fld d 35 32
def tdKind (d : BitVec 512) : Nat := fld d 37 36
def tdPlace (d : BitVec 512) : Nat := fld d 41 40
def tdH0 (d : BitVec 512) : Nat := fld d 45 42
def tdFrozen (d : BitVec 512) : Bool := bitOf d 46
def tdLocal (d : BitVec 512) : Bool := bitOf d 47
def tdGroup (d : BitVec 512) : Nat := fld d 55 48
def tdAddr (d : BitVec 512) : Nat := fld d 111 64
def tdBytes (d : BitVec 512) : Nat := fld d 159 112
def tdScale (d : BitVec 512) : Nat := if fld d 175 160 = 0 then 0x3F80 else fld d 175 160
def tdSm1 (d : BitVec 512) : Nat := if fld d 191 176 = 0 then 0x3F80 else fld d 191 176

/-- Protection method of a tensor's pages (R352): 1 for matrix and vector, 2 for embedding, else its METHOD. -/
def tdMethod (d : BitVec 512) : Nat :=
  match tdKind d with
  | 3 => if tdAddr d < 2 ^ 40 then fld d 39 38 else 0
  | 2 => 2
  | _ => 1

/-- Virtual pages of a tensor in LPDDR6 (R409: whole pages). -/
def tdPages (d : BitVec 512) : List Nat :=
  if tdAddr d < 2 ^ 40 then (List.range (pagesOf (tdBytes d))).map (tdAddr d / 0x200000 + ·) else []

/-- A tensor's format is scaled (R33). -/
def scaledTensor (t : Tensor) : Bool := match fmtOfCode (tdFmt t.desc) with | some f => f.scaled | none => false

/-- A tensor of the job. -/
def tensorOf (s : State) (h : Nat) : Option Tensor := mapFind s.job.tensors h

/-- A tensor of the job replaced. -/
def setTensor (s : State) (h : Nat) (t : Tensor) : State :=
  { s with job := { s.job with tensors := mapSet s.job.tensors h t } }

/-! ### Scale histories (R355) -/

def thScale (h : BitVec 384) : Nat := fld h 47 32
def thPinned (h : BitVec 384) : Bool := bitOf h 48
def thCount (h : BitVec 384) : Nat := fld h 53 49
def thCal (h : BitVec 384) : Nat := fld h 56 54
def thEntry (h : BitVec 384) (i : Nat) : Nat := fld h (16 * i + 79) (16 * i + 64)

/-- H: the largest entry of a history, 0 for an empty one (R36, R131). -/
def thMax (h : BitVec 384) : Nat := (List.range (thCount h)).foldl (fun m i => max m (thEntry h i)) 0

/-! ### Steering descriptors, defaults applied (R165) -/

/-- A field whose 0 stands for a default. -/
def orDefault (v d : Nat) : Nat := if v = 0 then d else v

def stLayer (d : BitVec 384) : Nat := fld d 15 0
def stWmin (d : BitVec 384) : Nat := orDefault (fld d 19 16) 3
def stWmax (d : BitVec 384) : Nat := orDefault (fld d 23 20) 8
def stWinit (d : BitVec 384) : Nat := orDefault (fld d 27 24) 4
def stPinWt (d : BitVec 384) : Nat := fld d 31 28
def stPinAct (d : BitVec 384) : Nat := fld d 35 32
def stBlock (d : BitVec 384) : Bool := bitOf d 36
def stOutOff (d : BitVec 384) : Bool := bitOf d 37
def stSampleOff (d : BitVec 384) : Bool := bitOf d 38
def stRatio (d : BitVec 384) : Nat := orDefault (fld d 43 40) 4
def stSample (d : BitVec 384) : Nat := orDefault (fld d 47 44) 8
def stAllow (d : BitVec 384) : Nat := orDefault (fld d 63 48) 64
def stHyst (d : BitVec 384) : Nat := orDefault (fld d 79 64) 16
def stUtol (d : BitVec 384) : Nat := orDefault (fld d 95 80) 1024
def stDtol (d : BitVec 384) : Nat := orDefault (fld d 111 96) 256
def stAgShift (d : BitVec 384) : Nat := orDefault (fld d 116 112) 5
def stNormK (d : BitVec 384) : Nat := orDefault (fld d 127 120) 6
def stNormEn (d : BitVec 384) : Bool := bitOf d 128
def stNormAct (d : BitVec 384) : Nat := fld d 130 129
def stSilentEn (d : BitVec 384) : Bool := bitOf d 131
def stNormShift (d : BitVec 384) : Nat := orDefault (fld d 135 132) 4
def stSilentRun (d : BitVec 384) : Nat := orDefault (fld d 159 144) 64
def stGroup (d : BitVec 384) : Nat := fld d 175 160
def stW (d : BitVec 384) : Nat := fld d 207 176
def stA (d : BitVec 384) : Nat := fld d 239 208
def stG (d : BitVec 384) : Nat := fld d 271 240

/-- The steered layer with a number. -/
def layerOf (s : State) (l : Nat) : Option SteerLayer := s.job.steer.find? fun x => stLayer x.desc == l

/-- A tensor some steering descriptor names (R131, R165). -/
def steeredHandle (s : State) (h : Nat) : Bool :=
  s.job.steer.any fun l => h != 0 && (stW l.desc == h || stA l.desc == h || stG l.desc == h)

/-- The watched gradient of a layer in the step (R165): by default the G_TENSOR of the descriptor that updates W_TENSOR; 0
where there is none. -/
def watchedGrad (s : State) (d : BitVec 384) : Nat :=
  if stG d ≠ 0 then stG d
  else match s.step.upd.find? fun u => fld u 31 0 == stW d with
    | some u => fld u 447 416
    | none => 0

/-! ### Formats and scales in force (R33, R34, R128, R149) -/

/-- The format code of width w (R128). -/
def widthFmt (w : Nat) : Nat := w - 1

/-- The format code of a rung (R149); none off the ladder. -/
def rungFmt (r : Nat) : Option Nat := match r with | 1 => some 5 | 2 => some 7 | 3 => some 12 | _ => none

/-- The steered format of a layer's weights or activations (R128, R149). -/
def layerFmt (l : SteerLayer) (weights : Bool) : Nat :=
  match rungFmt (fld l.layer 9 8) with
  | some f => f
  | none => widthFmt (if weights then fld l.layer 3 0 else fld l.layer 7 4)

/-- The steered format of a tensor, where a steering descriptor names it as weights or activations. -/
def steeredFmt (s : State) (h : Nat) : Option Nat :=
  if h = 0 then none
  else
    match s.job.steer.find? fun l => stW l.desc == h || stA l.desc == h with
    | some l => some (layerFmt l (stW l.desc == h))
    | none => none

/-- The format a tensor has in the step. -/
def stepFmt (s : State) (h : Nat) : Fmt :=
  let c := match steeredFmt s h with
    | some c => c
    | none => match tensorOf s h with | some t => tdFmt t.desc | none => 14
  (fmtOfCode c).getD .f32

/-- The scale a tensor has in the step, a bfloat16 code: 1.0 where its format has a fixed one; in calibration the one set
within the step (R33, R34, R163). -/
def stepScale (s : State) (h : Nat) : Nat :=
  if !(stepFmt s h).scaled then 0x3F80
  else match mapFind s.assay.calib h, tensorOf s h with
    | some c, _ => c
    | none, some t => thScale t.hist
    | none, none => 0x3F80

/-- The tensor is in calibration (R162). -/
def inCalibration (s : State) (h : Nat) : Bool :=
  match tensorOf s h with
  | some t => (stepFmt s h).scaled && !thPinned t.hist && decide (0 < thCal t.hist)
  | none => false

/-- Full scale F of a tensor's histogram (R131). -/
def fullScale (s : State) (h : Nat) : Dy :=
  let f := stepFmt s h
  if f.isIeee then
    match tensorOf s h with
    | some t => if thMax t.hist = 0 then dyNat 1 else bf16Val (thMax t.hist)
    | none => dyNat 1
  else dyMul (bf16Val (stepScale s h)) (qmax f)

/-! ### Gathering (R130, R131) -/

/-- Nothing gathered of a tensor. -/
def TensorStat.zero : TensorStat := ⟨dyZero, 0, 0, dyZero, [], [], [], []⟩

/-- Nothing gathered of a layer. -/
def LayerStat.zero : LayerStat := ⟨0, [0, 0, 0], 0, 0, 0, 0, dyZero, 0⟩

def tensorStat (s : State) (h : Nat) : TensorStat := mapGet s.assay.tensors h TensorStat.zero
def layerStat (s : State) (l : Nat) : LayerStat := mapGet s.assay.layers l LayerStat.zero

def setTensorStat (s : State) (h : Nat) (x : TensorStat) : State :=
  { s with assay := { s.assay with tensors := mapSet s.assay.tensors h x } }
def setLayerStat (s : State) (l : Nat) (x : LayerStat) : State :=
  { s with assay := { s.assay with layers := mapSet s.assay.layers l x } }

/-- Bin of ⌊log2(|v|/F)⌋ + 31, clamped (R131). -/
def histBin (v full : Dy) : Nat :=
  -- the largest bin b with 2^(b − 31) × F ≤ |v|
  let x := dyAbs v
  (List.range 32).foldl (fun (best : Nat) (b : Nat) => if dyLe (dyMul full (dyPow2 ((b : Int) - 31))) x then b else best) 0

/-- One finite source value of a tensor joins its statistics; `block` is its 64-channel block and `channel` its output
channel, where they are kept; a zero that is counted as a flush event is no exact zero (R130, R131). -/
def gatherValue1 (s : State) (h : Nat) (v : Dy) (block channel : Option Nat) (flushed : Bool) : State :=
  let x := tensorStat s h
  let a := dyAbs v
  let zero := dyIsZero v
  let b := histBin v (fullScale s h)
  let up := fun (m : List (Nat × Dy)) (k : Option Nat) =>
    match k with
    | some k => mapSet m k (dyMax (mapGet m k dyZero) a)
    | none => m
  setTensorStat s h
    { amax := dyMax x.amax a, n := x.n + 1, zeros := x.zeros + bit (zero && !flushed), squares := dyAdd x.squares (dyMul v v),
      hist := if zero then x.hist else mapUpd x.hist b 0 (· + 1),
      blocks := up x.blocks block, channels := up x.channels channel,
      blockHist := if zero then x.blockHist
        else match block with
          | some k => mapUpd x.blockHist (32 * k + b) 0 (· + 1)
          | none => x.blockHist }

/-- A source value of tensor h joins where the tensor has a scale or a steering descriptor names or watches it (R130). -/
def gather1 (s : State) (h : Nat) (v : Dy) (block channel : Option Nat) (flushed : Bool) : State :=
  let watched := s.job.steer.any fun l => watchedGrad s l.desc == h
  if h ≠ 0 && ((stepFmt s h).scaled || steeredHandle s h || watched) then gatherValue1 s h v block channel flushed else s

/-- k flush events of weights (0), activations (1) or the gradient (2) of a steered layer. -/
def addFlush (s : State) (l which k : Nat) : State :=
  if k = 0 ∨ (layerOf s l).isNone then s
  else
    let x := layerStat s l
    setLayerStat s l { x with flush := x.flush.set which (x.flush.getD which 0 + k) }

/-- k saturations of a steered layer. -/
def addSat (s : State) (l k : Nat) : State :=
  if k = 0 ∨ (layerOf s l).isNone then s
  else
    let x := layerStat s l
    setLayerStat s l { x with sat := x.sat + k }

/-- k flushed inputs held by tensor h go to every layer whose weights, activations or watched gradient it is (R130). -/
def flushInput (s : State) (h k : Nat) : State :=
  if k = 0 ∨ h = 0 then s
  else s.job.steer.foldl (fun s l =>
    let n := stLayer l.desc
    if stW l.desc = h then addFlush s n 0 k
    else if stA l.desc = h then addFlush s n 1 k
    else if watchedGrad s l.desc = h then addFlush s n 2 k else s) s

/-- The tensor whose bytes hold an address, 0 for none. -/
def tensorAt (s : State) (a : Nat) : Nat :=
  match s.job.tensors.find? fun e => decide (tdAddr e.2.desc ≤ a) && decide (a < tdAddr e.2.desc + tdBytes e.2.desc) with
  | some e => e.1
  | none => 0

/-- A saturation of a first-moment block goes to the layer whose W_TENSOR the block belongs to (R130). -/
def momentSat (s : State) (h k : Nat) : State :=
  if k = 0 ∨ h = 0 then s
  else s.job.steer.foldl (fun s l => if stW l.desc = h then addSat s (stLayer l.desc) k else s) s

/-- A saturation of a scale goes to the layers that steer or watch the tensor (R130). -/
def scaleSat (s : State) (h : Nat) : State :=
  if h = 0 then s
  else s.job.steer.foldl (fun s l =>
    if stW l.desc = h ∨ stA l.desc = h ∨ watchedGrad s l.desc = h then addSat s (stLayer l.desc) 1 else s) s

end Sys2Proof.Machine
end

