-- ==== Sys2Proof/Machine/Mills.lean ====
section
/-! DEFINITION. The update mills (08): update descriptors, the constants and the rule, the prologue, records, skipped
updates and the age sweep, and the two rows MILL_PROLOGUE and MILL_RECORD. -/

namespace Sys2Proof.Machine

/-! ### Update descriptors, optimiser sets, tensor mill states (R262, R264, R279, R284) -/

def udTensor (d : BitVec 512) : Nat := fld d 31 0
def udKind (d : BitVec 512) : Nat := fld d 33 32
def udBf16 (d : BitVec 512) : Bool := bitOf d 34
def udOptSet (d : BitVec 512) : Nat := fld d 47 40
def udStep (d : BitVec 512) : Nat := fld d 95 48
def udRows (d : BitVec 512) : Nat := fld d 127 96
def udCols (d : BitVec 512) : Nat := fld d 159 128
def udRowsAll (d : BitVec 512) : Nat := fld d 191 160
def udRecBase (d : BitVec 512) : Nat := fld d 239 192
def udGradBase (d : BitVec 512) : Nat := fld d 287 240
def udStatBase (d : BitVec 512) : Nat := fld d 335 288
def udTouchBase (d : BitVec 512) : Nat := fld d 383 336
def udTouchN (d : BitVec 512) : Nat := fld d 415 384
def udGTensor (d : BitVec 512) : Nat := fld d 447 416

/-- Records per row (R263). -/
def udRecCols (d : BitVec 512) : Nat := ceilDiv (udCols d) 32
/-- Bytes of a record (R257). -/
def recSize (kind : Nat) : Nat := if kind = 1 then 256 else 128
/-- Records of the shard (R263). -/
def udRecords (d : BitVec 512) : Nat := udRows d * udRecCols d
/-- Address of record k. -/
def recAddr (d : BitVec 512) (k : Nat) : Nat := udRecBase d + k * recSize (udKind d)

def tmUpdates (m : BitVec 128) : Nat := fld m 47 0
def tmRbar (m : BitVec 128) : Nat := fld m 63 48
def tmScale (m : BitVec 128) : Nat := fld m 79 64
def tmFrozen (m : BitVec 128) : Bool := bitOf m 80
def tmFrozenReq (m : BitVec 128) : Nat := fld m 127 96

def juGexp (u : BitVec 128) : Int := signedOf 8 (fld u 7 0)
def juGoodRun (u : BitVec 128) : Nat := fld u 47 16
def juGrowInt (u : BitVec 128) : Nat := fld u 79 48
def juSkips (u : BitVec 128) : Nat := fld u 111 80

/-- The tensor mill state of a tensor, zero where there is none. -/
def millState (s : State) (h : Nat) : BitVec 128 := match tensorOf s h with | some t => t.mill | none => 0

/-- The mill that owns the record at address a: the channel of its first line (R256). -/
def ownerMill (s : State) (a : Nat) : Nat := (unitOf (physOf a (peekEntry s a))).2.1

/-- The prologue mill of a shard: mill 0 of the guild whose store holds STAT_BASE (R268). -/
def prologueMill (d : BitVec 512) : Nat := (udStatBase d - storeBase) / 0x2000000 % 16 * 4

/-! ### Constants (R270) -/

/-- Per-step constants, binary32 codes. -/
structure MillConst where
  lr : Nat
  b1 : Nat
  b2 : Nat
  bla : Nat
  eps : Nat
  wd : Nat
  omb1 : Nat
  omb2 : Nat
  bc1 : Nat
  bc2 : Nat
  ig : Nat
  ig2 : Nat
  nr : Nat
  nra : Nat
  nc : Nat
  deriving DecidableEq, Repr

/-- 1.0 in binary32. -/
def f32One : Nat := 0x3F800000

/-- The binary32 nearest to 1 − b^t; b < 1 makes b^t vanish for t of 2^31 or more. -/
def biasCorrection (b t : Nat) : Nat :=
  if b % 2 ^ 31 = 0 ∨ 2 ^ 31 ≤ t then f32One
  else
    let x := dyPowNat (f32Num b).v t
    f32OfDy (dySub (dyNat 1) x)

/-- The binary32 nearest to b^k (R280). -/
def f32Pow (b k : Nat) : Nat := f32OfDy (dyPowNat (f32Num b).v k)

/-- The constants of a descriptor's tensor in the step (R270). -/
def millConst (s : State) (d : BitVec 512) : MillConst :=
  let o := mapGet s.job.optsets (udOptSet d) 0
  let f := fun (i : Nat) => fld o (32 * i + 31) (32 * i)
  let t := tmUpdates (millState s (udTensor d)) + 1
  let ge := juGexp s.job.update
  { lr := f 0, b1 := f 1, b2 := f 2, bla := f 3, eps := f 4, wd := f 5,
    omb1 := f32Sub f32One (f 1), omb2 := f32Sub f32One (f 2),
    bc1 := biasCorrection (f 1) t, bc2 := biasCorrection (f 2) t,
    ig := f32OfDy (dyPow2 (-ge)), ig2 := f32OfDy (dyPow2 (-2 * ge)),
    nr := f32OfDy (dyNat (udRowsAll d * udCols d)), nra := f32OfDy (dyNat (udRowsAll d)),
    nc := f32OfDy (dyNat (udCols d)) }

/-- A bfloat16 code as a binary32 code. -/
def f32OfBf16 (c : Nat) : Nat := c * 65536

/-! ### The rule (R272) -/

/-- What one element's rule gives, binary32 codes: pn, m1n, vn. -/
structure ElemUpdate where
  p   : Nat
  m1o : Nat
  dec : Nat
  pn  : Nat
  m1n : Nat
  deriving DecidableEq, Repr

/-- g := dec(gcode) × ig (R272). -/
def millGrad (c : MillConst) (dec : Nat) : Nat := f32Mul dec c.ig

/-- The rule for one element (R272). -/
def millElem (c : MillConst) (p m1o dec vhat : Nat) : ElemUpdate :=
  let g := millGrad c dec
  let m1n := f32Add (f32Mul c.b1 m1o) (f32Mul c.omb1 g)
  let la := f32Add m1n (f32Mul c.bla (f32Sub m1n m1o))
  let den := f32Add (f32Sqrt (f32Div vhat c.bc2)) c.eps
  let pn := f32Sub p (f32Mul c.lr (f32Add (f32Div (f32Div la c.bc1) den) (f32Mul c.wd p)))
  ⟨p, m1o, dec, pn, m1n⟩

/-- A decoded gradient element: L8 companion times scale, or bfloat16, rounded once (R272). -/
def gradDec (bf16 : Bool) (scale code : Nat) : Nat :=
  if bf16 then f32OfBf16 code
  else
    let x := decode .l8 false code
    match x.cls with
    | .finite => f32OfDy (dyMul x.v (bf16Val scale))
    | _ => nanCode .f32

/-- A decoded first moment q × 2^b × S, rounded once; NaN where the block or the element is NaR (R38). -/
def momentDec (bexp q scale : Nat) : Nat :=
  if bexp = 0x80 ∨ q = 0x80 then nanCode .f32
  else f32OfDy (dyMul ⟨signedOf 8 q, signedOf 8 bexp⟩ (bf16Val scale))

/-- The smallest b in [−127, 127] with 127 × 2^b × S ≥ A, and whether 127 is not enough (R39). -/
def blockExp (fuel : Nat) (b : Int) (scale : Nat) (a : Dy) : Int × Bool :=
  match fuel with
  | 0 => (127, true)
  | fuel + 1 =>
    if dyLe a (dyMul ⟨127, b⟩ (bf16Val scale)) then (b, false)
    else if b = 127 then (127, true) else blockExp fuel (b + 1) scale a

/-- A block of first moments encoded with its draws (R39): BEXP, the 32 codes, and the saturations. -/
def blockEncode (scale : Nat) (m1n draws : List Nat) : Nat × List Nat × Nat :=
  let vals := m1n.map fun c => (f32Num c).v
  if m1n.any fun c => !f32Finite c then (0x80, m1n.map fun _ => 0x80, 0)
  else
    let a := vals.foldl (fun acc v => dyMax acc (dyAbs v)) dyZero
    let b := (blockExp 256 (-127) scale a).1
    let unit := dyMul (dyPow2 b) (bf16Val scale)
    let one := fun (v : Dy) (u : Nat) =>
      let lo := searchBits (fun k => decide (k ≤ 127) && dyLe (dyMul (dyNat k) unit) (dyAbs v)) 7 0
      if lo = 127 then ((127 : Nat), dyLt (dyMul (dyNat 127) unit) (dyAbs v))
      else
        let frac := dySub (dyAbs v) (dyMul (dyNat lo) unit)
        (if dyLt (dyMul (dyNat u) unit) (dyMul frac (dyPow2 32)) then lo + 1 else lo, false)
    let qs := (vals.zip draws).map fun vu =>
      let r := one vu.1 vu.2
      (if dyIsNeg vu.1 then (256 - r.1) % 256 else r.1, r.2)
    (unsignedOf 8 b, qs.map (·.1), (qs.filter (·.2)).length)

/-! ### Reading and writing for a mill (R285, R287) -/

/-- n bytes for a mill: the bytes, and the addresses of the bad words among them (poisoned, uncorrectable or unmapped). -/
def millLoad (s : State) (a n : Nat) : State × List Byte × List Nat :=
  let (s, bs) := loadSpan s a n
  let bad := fun (w : Nat) => (bs.drop (w - a)).take (w + 16 - max a w) |>.any fun b => b.2 != 0
  (s, bs.map (·.1), ((List.range ((a + n + 15) / 16 - a / 16)).map fun i => (a / 16 + i) * 16).filter bad)

/-- The fault of a mill read (R285); `join` where it may extend that of the word before in one record (R227). -/
def millFault (s : State) (kind first last addr : Nat) (join : Bool := false) : State :=
  logFault s { kind := kind, cls := 3, op := 0xFFFE, first := first, last := last, addr := addr, src := 2 } join

/-- Words of a record written whole through the mill path, in the page whose entry gives METHOD (R273, R363). -/
def millStore (s : State) (a : Nat) (bs : List Byte) : State :=
  let e := peekEntry s a
  if pmMethod e = 2 then
    -- a row-journal page: the row was copied and marked before (R363)
    let tag := writeTag s
    (List.range (bs.length / 16)).foldl (fun s i =>
      let p := physOf (a + 16 * i) e
      writeWord s p (leAt bs (16 * i) 16) tag false) s
  else (storeSpan s a bs false).1

/-- The parts of bytes a to a + len − 1 that lie in single pages: address and length. -/
def pageParts (a len : Nat) : List (Nat × Nat) :=
  (List.range ((a + len + 2 ^ 21 - 1) / 2 ^ 21 - a / 2 ^ 21)).map fun i =>
    let lo := max a ((a / 2 ^ 21 + i) * 2 ^ 21)
    (lo, min (a + len) ((a / 2 ^ 21 + i + 1) * 2 ^ 21) - lo)

/-- Words of a row read one by one through the page's entry e: corrected and logged as any read is; those that are poisoned or
uncorrectable (R246, R249, R251). -/
def readRow (s : State) (e a n : Nat) : State × List Nat :=
  (List.range n).foldl (fun (acc : State × List Nat) i =>
    let p := physOf (a + 16 * i) e
    let (t, r) := readMem acc.1 p 0
    (t, if badWord r then acc.2 ++ [p] else acc.2)) (s, [])

/-- The part of a row that lies in one write-protected page copied into staging, its words read as any read is (R246, R363, R365). -/
def copyRowPart (s : State) (p : Nat × Nat) : State :=
  let (a, len) := p
  let (s, e) := lookupPage s a
  let v := a / 2 ^ 21
  let gen := pmSealgen e
  if !pmWp e then s
  else
    let rows := s.sealer.copies.foldl (fun n c => match c.row with | some (_, l) => n + l | none => n) 0
    if stagingRoom s (pagesOf (rows + len) - pagesOf rows) then
      let (s, bad) := readRow s e a (len / 16)
      let im := frameCopy s (pmHome e) (pmFrame e) bad
      let keep := fun (scale : Nat) (c : Host.Cell) => decide (a % 2 ^ 21 ≤ c.1 * scale) && decide (c.1 * scale < a % 2 ^ 21 + len)
      let c : StageCopy := ⟨BitVec.ofNat 32 gen, v, some (a, len), ⟨im.data.filter (keep 1), im.metadata.filter (keep 8)⟩⟩
      trace { s with sealer := { s.sealer with copies := s.sealer.copies ++ [c] } } 11 1 0 v gen
    else leaveUncopied s v gen

/-- Before the first record of a row is written through the mill path, the row's records are copied into staging where a page of theirs
is write-protected, and the row joins the dirty set (R356, R363, R365). -/
def millCopyRow (s : State) (a len : Nat) : State :=
  if pmMethod (peekEntry s a) != 2 || s.sealer.dirtyRows.any (fun r => r.1 == a) then s
  else
    let s := (pageParts a len).foldl copyRowPart s
    { s with sealer := { s.sealer with dirtyRows := s.sealer.dirtyRows ++ [(a, len)] } }

/-! ### The prologue (R271, R334) -/

/-- Offsets of the parts of a statistics area (R334): Csum, Rsum, c, r. With SQ = 2 Rsum begins at 64. -/
def statParts (ncols nrows : Nat) : Nat × Nat × Nat × Nat :=
  let pad := fun n => ceilDiv n 64 * 64
  let cs := 64
  let rs := cs + pad (4 * ncols)
  let c := rs + pad (4 * nrows)
  (cs, rs, c, c + pad (2 * ncols))

/-- One statistic: sr16(b2 × old + omb2 × ((sum × ig2) / n)) with draw u (R271). -/
def statUpdate (c : MillConst) (old sum n u : Nat) : Conv :=
  sr16 (f32Add (f32Mul c.b2 (f32OfBf16 old)) (f32Mul c.omb2 (f32Div (f32Mul sum c.ig2) n))) u

/-- Saturations among conversions. -/
def convSats (cs : List Conv) : Nat := (cs.filter (·.sat)).length

/-- The prologue of matrix descriptor `i`: c, r and r̄ updated with the mill's draws; a bad word leaves every
statistic and every record of the shard unwritten (R271, R285). -/
def matrixPrologue (s : State) (i : Nat) (d : BitVec 512) : State :=
  let mill := prologueMill d
  let unit := 0xA000 + mill
  let nc := udCols d
  let nr := udRows d
  let (cs, rs, cO, rO) := statParts nc nr
  let base := udStatBase d
  let (s, q, b0) := millLoad s base 4
  let (s, csum, b1) := millLoad s (base + cs) (4 * nc)
  let (s, rsum, b2) := millLoad s (base + rs) (4 * nr)
  let (s, c, b3) := millLoad s (base + cO) (2 * nc)
  let (s, r, b4) := millLoad s (base + rO) (2 * nr)
  let bad := b0 ++ b1 ++ b2 ++ b3 ++ b4
  let k := millConst s d
  let u := fun j => drawPeek s unit 0 j
  let cNew := (List.range nc).map fun j => statUpdate k (leAt c (2 * j) 2) (leAt csum (4 * j) 4) k.nra (u j)
  let rNew := (List.range nr).map fun j => statUpdate k (leAt r (2 * j) 2) (leAt rsum (4 * j) 4) k.nc (u (nc + j))
  let m := millState s (udTensor d)
  let rbar := statUpdate k (tmRbar m) (leAt q 0 4) k.nr (u (nc + nr))
  let s := advanceDraws s unit 0 (nc + nr + 1)
  let s := { s with step := { s.step with prologues := s.step.prologues ++ [i] } }
  match bad with
  | [] =>
    let s := momentSat s (udTensor d) (convSats (rbar :: cNew ++ rNew))
    let s := (storeSpan s (base + cO) (cNew.map fun x => bytesOfNat 2 x.code).flatten false).1
    let s := (storeSpan s (base + rO) (rNew.map fun x => bytesOfNat 2 x.code).flatten false).1
    match tensorOf s (udTensor d) with
    | some t => setTensor s (udTensor d) { t with mill := setFld t.mill 63 48 rbar.code }
    | none => s
  | a :: rest =>
    let last := rest.getLastD a
    let s := { s with step := { s.step with badShards := s.step.badShards ++ [i] } }
    millFault s 1 ((a - base) / 4) ((last - base) / 4 + 3) a

/-- Entry e of a touch list and whether the mills skip it: at or beyond NROWS, or not above the one before (R282), or in a bad word
(R285, log 84). -/
def touchAt (s : State) (d : BitVec 512) (e : Nat) : Nat × Bool :=
  let word := fun i => (loadSpan s (udTouchBase d + 4 * i) 4).2
  let get := fun i => leAt ((word i).map (·.1)) 0 4
  let row := get e
  (row, decide (udRows d ≤ row) || (decide (0 < e) && decide (row ≤ get (e - 1))) || (word e).any fun b => b.2 != 0)

/-- One entry of the touch list as the prologue mill reads it: a bad word or an entry out of order is recorded (R282, R285). -/
def readTouch (d : BitVec 512) (s : State) (e : Nat) : State :=
  let a := udTouchBase d + 4 * e
  let (s, _, bad) := millLoad s a 4
  match bad with
  | w :: _ => millFault s 1 e e w (e % 4 != 0)
  | [] => if (touchAt s d e).2 then millFault s 4 e e a else s

/-- The prologue mill's work for an embedding shard: it reads the touch list and the shard's Rsum values. A bad word of the statistics
area leaves every record of the shard unwritten (R271, R282, R285). -/
def embeddingPrologue (s : State) (i : Nat) (d : BitVec 512) : State :=
  let s := { s with step := { s.step with prologues := s.step.prologues ++ [i] } }
  let s := (List.range (udTouchN d)).foldl (readTouch d) s
  let base := udStatBase d
  let (s, _, bad) := millLoad s (base + 64) (4 * udTouchN d)
  match bad with
  | [] => s
  | a :: rest =>
    let s := { s with step := { s.step with badShards := s.step.badShards ++ [i] } }
    millFault s 1 ((a - base) / 4) ((rest.getLastD a - base) / 4 + 3) a

/-! ### Work of a mill, in order (R268) -/

/-- The next work of a mill. -/
inductive MillWork where
  | prologue (i : Nat)
  | record (i k e : Nat)
  | sweep (tensor row : Nat)
  | waits
  | finished
  deriving DecidableEq, Repr

/-- Descriptor i of the step. -/
def updAt (s : State) (i : Nat) : BitVec 512 := s.step.upd.getD i 0

/-- The descriptor's tensor is frozen (R283). -/
def udFrozen (s : State) (d : BitVec 512) : Bool := tmFrozen (millState s (udTensor d))

/-- Record positions of a descriptor: records, or touched records in touch-list order. -/
def positions (d : BitVec 512) : Nat :=
  if udKind d = 2 then udTouchN d * udRecCols d else udRecords d

/-- Record and touch entry of a position; none where the entry is skipped. -/
def positionRecord (s : State) (d : BitVec 512) (pos : Nat) : Option (Nat × Nat) :=
  if udKind d = 2 then
    let e := pos / udRecCols d
    let (row, skip) := touchAt s d e
    if skip then none else some (row * udRecCols d + pos % udRecCols d, e)
  else some (pos, 0)

/-- The first own position at or after pos. -/
def nextOwn (s : State) (d : BitVec 512) (mill : Nat) : (fuel : Nat) → Nat → Option (Nat × Nat × Nat)
  | 0, _ => none
  | fuel + 1, pos =>
    match positionRecord s d pos with
    | some (k, e) =>
      if ownerMill s (recAddr d k) = mill then some (pos, k, e) else nextOwn s d mill fuel (pos + 1)
    | none => nextOwn s d mill fuel (pos + 1)

/-- The rows the age sweep visits: of every non-frozen embedding tensor whose shape a descriptor has given, the
rows the step did not touch; a step whose vote is false touches none (R278, R281). Pairs of tensor and row. -/
def sweepRows (s : State) : List (Nat × Nat) :=
  (s.job.shapes.filter fun e => udKind e.2 == 2 && !tmFrozen (millState s e.1)).flatMap fun e =>
    let touched := s.step.upd.flatMap fun d =>
      if udTensor d = e.1 ∧ udKind d = 2 ∧ s.step.vote != some false then
        ((List.range (udTouchN d)).filter fun i => !(touchAt s d i).2).map fun i => (touchAt s d i).1
      else []
    ((List.range (udRows e.2)).filter fun r => !touched.contains r).map fun r => (e.1, r)

/-- Address of the first record of an embedding row. -/
def rowAddr (s : State) (t r : Nat) : Nat :=
  let d := mapGet s.job.shapes t 0
  recAddr d (r * udRecCols d)

/-- The step's counter is a multiple of 32,768: the sweep runs (R281). -/
def sweepStep (s : State) : Bool := s.step.number.toNat % 32768 == 0

/-- The next work of a mill from its place in descriptor i (R268, R278, R281). -/
def workFrom (s : State) (mill : Nat) : (fuel : Nat) → Nat → Nat → MillWork
  | 0, _, _ => .finished
  | fuel + 1, i, pos =>
    if s.step.upd.length ≤ i then
      if !sweepStep s then .finished
      else
        let rows := (sweepRows s).filter fun r => ownerMill s (rowAddr s r.1 r.2) == mill
        match rows[pos]? with
        | some (t, r) => .sweep t r
        | none => .finished
    else
      let d := updAt s i
      if udFrozen s d || s.step.vote == some false then workFrom s mill fuel (i + 1) 0
      else if udKind d != 1 && prologueMill d == mill && !s.step.prologues.contains i then .prologue i
      else
        match nextOwn s d mill (positions d - pos) pos with
        | none => workFrom s mill fuel (i + 1) 0
        | some (p, k, e) =>
          if udKind d = 0 && !s.step.prologues.contains i then .waits
          else if udKind d = 2 && p % udRecCols d != 0 &&
              (mapFind s.step.rows (2 ^ 32 * i + k / udRecCols d)).isNone then .waits
          else .record i k e

/-- The next work of a mill. -/
def millWork (s : State) (mill : Nat) : MillWork :=
  let (i, pos) := mapGet s.step.mills mill (0, 0)
  workFrom s mill (s.step.upd.length + 2) i pos

/-- The position after record k / entry e of descriptor i. -/
def positionAfter (d : BitVec 512) (k e : Nat) : Nat :=
  if udKind d = 2 then e * udRecCols d + k % udRecCols d + 1 else k + 1

/-- The mill's place moved on. -/
def setPlace (s : State) (mill i pos : Nat) : State :=
  { s with step := { s.step with mills := mapSet s.step.mills mill (i, pos) } }

/-! ### One record (R272 to R274, R280) -/

/-- Draws a record takes (R269). -/
def recordDraws (d : BitVec 512) (k : Nat) : Nat :=
  match udKind d with
  | 1 => 96
  | 2 => if k % udRecCols d = 0 then 65 else 64
  | _ => 64

/-- The row state of an embedding row as its first record is read: Δt or unknown age, and the new RROW. -/
def rowUpdate (s : State) (d : BitVec 512) (c : MillConst) (rec_ : List Byte) (e unit : Nat) :
    State × Option Nat × Option Conv :=
  let stale := (leAt rec_ 97 1).testBit 0
  let last := leAt rec_ 98 2
  let rrow := leAt rec_ 100 2
  let t := s.step.number.toNat
  let dt := (t + 65536 - last) % 65536
  let unknown := stale || dt == 0 || decide (32768 ≤ dt)
  let s := if unknown then bump s 0xEC7 else s
  let old := if unknown then 0
             else if dt = 1 then f32OfBf16 rrow
             else f32Mul (f32OfBf16 rrow) (f32Pow c.b2 (dt - 1))
  let (s, rs, bad) := millLoad s (udStatBase d + 64 + 4 * e) 4
  let sum := leAt rs 0 4
  let x := f32Add (f32Mul c.b2 old) (f32Mul c.omb2 (f32Div (f32Mul sum c.ig2) c.nc))
  let new := sr16 x (drawPeek s unit 0 64)
  (s, if unknown then none else some dt, if bad.isEmpty then some new else none)

/-- An embedding row's first record as it is written: LAST = T mod 2^16, STALE = 0, RROW (R280). -/
def rowFields (t rrow : Nat) (rest : Nat) : Nat :=
  natSetFld (natSetFld (natSetFld rest 776 776 0) 799 784 (t % 65536)) 815 800 rrow

/-- The EV_MILL_HELD of the step's first held record (R274). -/
def holdRecord (s : State) (tensor k : Nat) : State :=
  let s := bump s 0xEC6
  if s.step.heldRaised then s
  else raise { s with step := { s.step with heldRaised := true } } { code := 0x4001, src := 2, a0 := tensor, a1 := k }

/-- A finite binary32 code. -/
def finite32 (c : Nat) : Bool := f32Finite c

/-- The elements of a record that a word of it touches (R258): eight parameters or second moments, sixteen first moments, and all
of them for the word of the block exponent and the row's fields and for a reserved one. -/
def recordPart (kind w : Nat) : Nat × Nat :=
  if w < 4 then (8 * w, 8 * w + 7)
  else if w < 6 then (16 * (w - 4), 16 * (w - 4) + 15)
  else if kind = 1 ∧ 8 ≤ w ∧ w < 12 then (8 * (w - 8), 8 * (w - 8) + 7)
  else (0, 31)

/-- The record k of descriptor i (touch entry e): the rule over its 32 elements, written whole, held, or left
unwritten where a read was bad (R272 to R274, R285). -/
def millRecordOp (s : State) (mill i k e : Nat) : State :=
  let d := updAt s i
  let kind := udKind d
  let unit := 0xA000 + mill
  let n := recordDraws d k
  let cols := udRecCols d
  let row := k / cols
  let first := kind == 2 && k % cols == 0
  let c := millConst s d
  let (s, rec_, b0) := millLoad s (recAddr d k) (recSize kind)
  let gw := if udBf16 d then 2 else 1
  let live := min 32 (udCols d - k % cols * 32)
  let grow := if kind = 2 then e else row
  let gIndex := grow * udCols d + k % cols * 32
  let e0 := row * udCols d + k % cols * 32
  let (s, g, b1) := millLoad s (udGradBase d + gIndex * gw) (live * gw)
  let key := 2 ^ 32 * i + row
  let (s, dt, rrow, rsat) := if first then
      let (s, dt, x) := rowUpdate s d c rec_ e unit
      (s, dt, x.map (·.code), bit (x.elim false (·.sat)))
    else (s, (mapGet s.step.rows key (none, none)).1, (mapGet s.step.rows key (none, none)).2, 0)
  let s := if first then
      { s with step := { s.step with rows := mapSet s.step.rows key (dt, if b0.isEmpty then rrow else none) } } else s
  let (_, _, cO, rO) := statParts (udCols d) (udRows d)
  let (s, cv, b2) := if kind = 0 then millLoad s (udStatBase d + cO + 2 * (k % cols * 32)) 64 else (s, [], [])
  let (s, rv, b3) := if kind = 0 then millLoad s (udStatBase d + rO + 2 * row) 2 else (s, [], [])
  let v := natOfBytes rec_
  let u := fun j => drawPeek s unit 0 j
  let gs := stepScale s (udGTensor d)
  let sc := tmScale (millState s (udTensor d))
  let rbar := tmRbar (millState s (udTensor d))
  let bexp := natFld v 775 768
  let elem := fun (j : Nat) =>
    let p := f32OfBf16 (natFld v (16 * j + 15) (16 * j))
    let m1r := momentDec bexp (natFld v (8 * j + 519) (8 * j + 512)) sc
    let m1o := if kind = 2 then
        (match dt with
         | none => if finite32 m1r then 0 else m1r
         | some t => if t = 1 then m1r else f32Mul m1r (f32Pow c.b1 (t - 1)))
      else m1r
    let dec := if j < live then gradDec (udBf16 d) gs (leAt g (j * gw) gw) else 0
    let gg := millGrad c dec
    let vc := if kind = 1 then
        sr16 (f32Add (f32Mul c.b2 (f32OfBf16 (natFld v (16 * j + 1039) (16 * j + 1024)))) (f32Mul c.omb2 (f32Mul gg gg)))
          (u (64 + j))
      else sr16 0 0
    let vn := vc.code
    let vhat := match kind with
      | 0 => if rbar % 2 ^ 15 = 0 then 0
             else f32Div (f32Mul (f32OfBf16 (leAt rv 0 2)) (f32OfBf16 (leAt cv (2 * j) 2))) (f32OfBf16 rbar)
      | 1 => f32OfBf16 vn
      | _ => f32OfBf16 (rrow.getD 0)
    (millElem c p m1o dec vhat, vn, bit vc.sat)
  let es := (List.range 32).map elem
  let s := advanceDraws s unit 0 n
  let s := setPlace s mill i (positionAfter d k e)
  let wordsOf := fun (base w : Nat) (ws : List Nat) => ws.map fun (a : Nat) => ((a - base) / w, (a + 15 - base) / w, a)
  let bad := (b0.map fun a => let x := recordPart kind ((a - recAddr d k) / 16); (x.1, x.2, a)) ++
    wordsOf (udGradBase d + gIndex * gw) gw b1 ++
    wordsOf (udStatBase d + cO + 2 * (k % cols * 32)) 2 b2 ++ b3.map fun a => (0, live - 1, a)
  match bad with
  | _ :: _ => bad.foldl (fun s x =>
      millFault s 1 (e0 + min x.1 (live - 1)) (e0 + min x.2.1 (live - 1)) (x.2.2 / 16 * 16) (x.1 != 0)) s
  | [] =>
    if s.step.badShards.contains i then s
    else if kind == 2 && rrow.isNone then
      millFault s 1 (row * udCols d) (row * udCols d + udCols d - 1) (udStatBase d + 64 + 4 * e)
    else
      let heldE := fun (x : ElemUpdate × Nat × Nat) =>
        !finite32 x.1.p || !finite32 x.1.m1o || !finite32 x.1.dec || !finite32 x.1.pn || !finite32 x.1.m1n ||
          !finite32 (f32OfBf16 x.2.1)
      if (es.take live).any heldE then holdRecord s (udTensor d) k
      else
        let pc := (List.range live).map fun j => sr16 ((es.getD j default0).1.pn) (u j)
        let ps := (List.range 32).map fun j => (pc.map (·.code)).getD j 0
        let m1 := (List.range 32).map fun j => if j < live then ((es.getD j default0).1.m1n) else 0
        let (be, qs, sats) := blockEncode sc m1 ((List.range 32).map fun j => u (32 + j))
        let vs := (List.range 32).map fun j => if j < live then (es.getD j default0).2.1 else 0
        let sats := sats + convSats pc + ((es.take live).map (·.2.2)).sum + rsat
        let low := natOfBytes ((ps.map (bytesOfNat 2)).flatten ++ (qs.map (bytesOfNat 1)).flatten ++ bytesOfNat 1 be)
        let rest := natSetFld v 775 0 low
        let rest := if first then rowFields s.step.number.toNat (rrow.getD 0) rest else rest
        let rest := if kind = 1 then natSetFld rest 1535 1024 (natOfBytes ((vs.map (bytesOfNat 2)).flatten)) else rest
        let s := if kind = 2 then millCopyRow s (recAddr d (row * cols)) (cols * 128) else s
        millStore (countEvents (momentSat s (udTensor d) sats) 11 mill 32) (recAddr d k) (bytesOfNat (recSize kind) rest)
where
  /-- Filler for a list index that is always in range. -/
  default0 : ElemUpdate × Nat × Nat := (⟨0, 0, 0, 0, 0⟩, 0, 0)

/-- The age sweep of one row's first record (R281). -/
def sweepRow (s : State) (mill t r : Nat) : State :=
  let a := rowAddr s t r
  let d := mapGet s.job.shapes t 0
  let (s, rec_, bad) := millLoad s a 128
  let place := mapGet s.step.mills mill (0, 0)
  let s := setPlace s mill s.step.upd.length (if place.1 = s.step.upd.length then place.2 + 1 else 1)
  match bad with
  | _ :: _ => bad.foldl (fun s b =>
      let x := recordPart 2 ((b - a) / 16)
      let top := min 31 (udCols d - 1)
      millFault s 1 (r * udCols d + min x.1 top) (r * udCols d + min x.2 top) b (x.1 != 0)) s
  | [] =>
    let v := natOfBytes rec_
    let age := (s.step.number.toNat + 65536 - natFld v 799 784) % 65536
    if v.testBit 776 || decide (age < 32768) then s
    else
      let s := millCopyRow s a (udRecCols d * 128)
      millStore s a (bytesOfNat 128 (natSetFld v 776 776 1))

/-! ### Beginning, skipping and ending the phase (R267, R275, R278, R283) -/

/-- Draws of mill `mill` for descriptor i under R269, without computing them. -/
def skipDraws (s : State) (mill : Nat) (d : BitVec 512) : Nat :=
  if udFrozen s d then 0
  else
    let pro := if udKind d = 0 ∧ prologueMill d = mill then udCols d + udRows d + 1 else 0
    let recs := (List.range (positions d)).foldl (fun n pos =>
      match positionRecord s d pos with
      | some (k, _) => if ownerMill s (recAddr d k) = mill then n + recordDraws d k else n
      | none => n) 0
    pro + recs

/-- Every mill's counter advances by the draws of the step's descriptors (R278). -/
def skipMills (s : State) : State :=
  (List.range 64).foldl (fun s' mill =>
    advanceDraws s' (0xA000 + mill) 0 ((s.step.upd.map (skipDraws s mill)).sum)) s

/-- FROZEN_REQ of the frozen tensors the descriptors name (R283). -/
def countFrozen (s : State) : State :=
  s.step.upd.foldl (fun s d =>
    match tensorOf s (udTensor d) with
    | some t =>
      if tmFrozen t.mill then
        setTensor s (udTensor d) { t with mill := setFld t.mill 127 96 (min 0xFFFFFFFF (tmFrozenReq t.mill + 1)) }
      else s
    | none => s) s

/-- The c and r arrays of a shard as they stand in its statistics area (R334). -/
def statArrays (s : State) (d : BitVec 512) : List Byte :=
  let (_, _, cO, rO) := statParts (udCols d) (udRows d)
  let get := fun (a n : Nat) => ((loadSpan s a n).2).map (·.1)
  get (udStatBase d + cO) (2 * udCols d) ++ get (udStatBase d + rO) (2 * udRows d)

/-- The c and r arrays of a shard written into its statistics area with a tag. -/
def putStatArrays (s : State) (d : BitVec 512) (bs : List Byte) (tag : Nat) : State :=
  let (nc, nr) := (udCols d, udRows d)
  let (_, _, cO, rO) := statParts nc nr
  let s := (storeWords (2 * nc + 1) s (udStatBase d + cO) (slice bs 0 (2 * nc)) tag false).1
  (storeWords (2 * nr + 1) s (udStatBase d + rO) (slice bs (2 * nc) (2 * nr)) tag false).1

/-- A descriptor names a shard whose place the module did not know: a matrix shard's arrays take the values that a restored seal record
held for it, and what they were before its first prologue is kept for a restore (R286, R380, log 89). -/
def meetShard (s : State) (d : BitVec 512) : State :=
  let h := udTensor d
  if udKind d != 0 || (mapFind s.job.shapes h).isSome then s
  else
    let s := match mapFind s.job.sealedStats h with
      | some bs => putStatArrays s d (bs.drop 16) (writeTag s)
      | none => s
    { s with job := { s.job with sealedStats := mapErase s.job.sealedStats h,
                                 firstStats := mapSet s.job.firstStats h (statArrays s d) } }

/-- Remembered shapes of the matrix and embedding tensors the descriptors name. -/
def rememberShapes (s : State) : State :=
  s.step.upd.foldl (fun s d =>
    if udKind d != 1 then
      let s := meetShard s d
      { s with job := { s.job with shapes := mapSet s.job.shapes (udTensor d) d } }
    else s) s

/-- Every mill has finished its work of the phase. -/
def millsFinished (s : State) : Bool := (List.range 64).all fun m => millWork s m == .finished

/-- At the end of a mill phase with a true vote UPDATES rises for every named tensor that is not frozen (R275). -/
def countUpdates (s : State) : State :=
  s.step.upd.foldl (fun s d =>
    match tensorOf s (udTensor d) with
    | some t =>
      if tmFrozen t.mill then s
      else setTensor s (udTensor d) { t with mill := setFld t.mill 47 0 (min (2 ^ 48 - 1) (tmUpdates t.mill + 1)) }
    | none => s) s

/-- The phase ends once every mill has finished; the boundary work comes next (R267). -/
def endMillPhase (s : State) : State :=
  if s.step.phase == 1 && millsFinished s then
    let s := if s.step.vote == some true then countUpdates s else s
    { s with step := { s.step with phase := 2 } }
  else s

/-- The job update state after a skipped update (R278). -/
def skipUpdate (u : BitVec 128) : BitVec 128 :=
  let ge := juGexp u
  let u := setFld u 7 0 (unsignedOf 8 (if ge ≤ -32 then -32 else ge - 1))
  let u := setFld u 47 16 0
  setFld u 111 80 (min 0xFFFFFFFF (juSkips u + 1))

/-- The mill phase begins with the vote's result; `causes` are the local causes of a false contribution (R267, R278). -/
def beginMillPhase (s : State) (vote : Bool) (causes : Nat) : State :=
  let s := { s with step := { s.step with phase := 1, vote := some vote, mills := [], prologues := [],
                                          badShards := [], rows := [] } }
  let s := trace s 2 1 s.step.plan (genOf s s.step.number.toNat).toNat 0
  let s := rememberShapes (countFrozen s)
  let s :=
    if vote then s
    else
      let s := skipMills s
      let s := { s with job := { s.job with update := skipUpdate s.job.update },
                        step := { s.step with skipped := true } }
      raise s { code := 0x1004, src := 0, argS := causes, a0 := fld s.job.update 7 0, a1 := juSkips s.job.update }
  endMillPhase s

/-! ### The rows -/

/-- MILL_PROLOGUE (R271): the prologue mill of a guild works its next prologue. -/
def execMillPrologue (guild : Fin 16) (s : State) : Host.Outcome State Fault Refusal :=
  .next (
    if s.step.phase != 1 || stopped s then s
    else
      match millWork s (4 * guild.val) with
      | .prologue i =>
        let d := updAt s i
        endMillPhase (if udKind d = 0 then matrixPrologue s i d else embeddingPrologue s i d)
      | _ => s)

/-- MILL_RECORD (R272, R281): a mill works its next record, or the sweep's next row. -/
def execMillRecord (mill : Fin 64) (s : State) : Host.Outcome State Fault Refusal :=
  .next (
    if s.step.phase != 1 || stopped s then s
    else
      match millWork s mill.val with
      | .record i k e => endMillPhase (millRecordOp s mill.val i k e)
      | .sweep t r => endMillPhase (sweepRow s mill.val t r)
      | _ => s)

end Sys2Proof.Machine
end

