-- ==== Sys2Proof/Machine/SealRecord.lean ====
section
/-! DEFINITION. The seal record: protected pages, sections, header and directory, its checks and its loading
(R303, R304, R352 to R355, R382 to R384, R532). -/

namespace Sys2Proof.Machine

/-! ### Protected pages (R352) -/

/-- Protected pages, in increasing page number, with their METHOD (R352). -/
def protectedPages (s : State) : List (Nat × Nat) :=
  (s.job.tensors.flatMap fun e =>
    let m := tdMethod e.2.desc
    if m = 0 then [] else (tdPages e.2.desc).map fun v => (v, m)).foldl (fun acc e => mapSet acc e.1 e.2) []

/-! ### Sections (R354, R532) -/

/-- Tensors with a scale history: scaled ones and ones a steering descriptor names (R354). -/
def historyTensors (s : State) : List (Nat × Tensor) :=
  s.job.tensors.filter fun e => scaledTensor e.2 || steeredHandle s e.1

/-- Counters of the draw state (R303): four per lane generator unit, one per mill and hub unit. -/
def drawKeys : List Nat :=
  (List.range (4 * 0xA000)) ++ (List.range 64).map (fun m => 4 * (0xA000 + m)) ++
    (List.range 256).map (fun h => 4 * (0xA100 + h))

/-- Number of counters (R303). -/
def drawCountAll : Nat := 4 * 0xA000 + 64 + 256

/-- Draw state header (R303). -/
def drawHeader (s : State) (t gen cursor : Nat) : BitVec 512 :=
  packRec 512 [(47, 0, t), (111, 64, cursor), (151, 128, s.job.rank.toNat), (191, 160, gen), (223, 192, drawCountAll),
    (239, 224, s.job.overrides.length), (319, 256, s.job.seed.toNat)]

/-- One override of the draw state (R303). -/
def overrideBytes (e : Nat × BitVec 128) : List Byte :=
  bytesOfNat 16 e.2.toNat ++ bytesOfNat 2 e.1 ++ bytesOfNat 1 3 ++ bytesOfNat 5 0

/-- Section 5's block of a layer (R532). -/
def steerBytes (l : SteerLayer) : List Byte :=
  let a := l.outliers.length
  padTo 64 (bytesOfNat 2 (fld l.desc 15 0) ++ bytesOfNat 1 l.pinWt ++ bytesOfNat 1 l.pinAct ++
    bytesOfNat 4 l.blocks.length ++ bytesOfNat 4 a ++ bytesOfNat 4 0 ++ bytesOfNat 256 l.layer.toNat ++
    (l.blocks.map fun b => bytesOfNat 8 b.toNat).flatten ++ (l.outliers.map fun o => bytesOfNat 4 o.toNat).flatten)

/-- Section 6's block of a matrix shard: header, c and r (R532), read from its statistics area (R334). -/
def shardBytes (s : State) (h : Nat) (d : BitVec 512) : List Byte :=
  padTo 64 (bytesOfNat 4 h ++ bytesOfNat 4 (udCols d) ++ bytesOfNat 4 (udRows d) ++ bytesOfNat 4 0 ++ statArrays s d)

/-- Section 6's blocks by handle: of the shards whose place a descriptor has given, and of those that wait for it since a restore
(R532, log 89). -/
def shardBlocks (s : State) : List (Nat × List Byte) :=
  (s.job.shapes.filter fun e => udKind e.2 == 0).foldl
    (fun (m : List (Nat × List Byte)) e => mapSet m e.1 (shardBytes s e.1 e.2)) (s.job.sealedStats.map fun e => (e.1, padTo 64 e.2))

/-- A group record's bytes (R323). -/
def groupBytes (g : GroupRec) : List Byte :=
  bytesOfNat 32 g.header.toNat ++ (g.members.map fun m => bytesOfNat 8 m.toNat).flatten

/-- VALID groups, in increasing group number. -/
def validGroups (s : State) : List (Nat × GroupRec) := s.fab.groups.filter fun e => gValid e.2

/-- The protected page list, section 9 (R354). -/
def pageListBytes (s : State) : List Byte :=
  ((protectedPages s).map fun e => bytesOfNat 4 (e.1 + e.2 * 2 ^ 19)).flatten

/-- Section id of the record of step t (R354, R532). -/
def sectionBytes (s : State) (t gen cursor : Nat) : Nat → List Byte
  | 1 => bytesOfNat 16 s.job.update.toNat
  | 2 => ((s.job.tensors.filter fun e => tdKind e.2.desc != 3).map fun e =>
      bytesOfNat 4 e.1 ++ bytesOfNat 4 0 ++ bytesOfNat 16 e.2.mill.toNat).flatten
  | 3 => bytesOfNat 64 (drawHeader s t gen cursor).toNat ++
      (drawKeys.map fun k => bytesOfNat 8 (mapGet s.job.draws k 0).toNat).flatten ++
      (s.job.overrides.map overrideBytes).flatten
  | 4 => ((historyTensors s).map fun e => bytesOfNat 48 e.2.hist.toNat).flatten
  | 5 => (s.job.steer.map steerBytes).flatten
  | 6 => ((shardBlocks s).map (·.2)).flatten
  | 7 => bytesOfNat 2 (validGroups s).length ++ bytesOfNat 1 s.job.barrier ++ bytesOfNat 13 0 ++
      ((validGroups s).map fun e => groupBytes e.2).flatten
  | 8 => ((List.range 65536).map fun d => bytesOfNat 8 (mapGet s.fab.routes d 0).toNat).flatten
  | 9 => pageListBytes s
  | 10 => (s.job.optsets.map fun e => bytesOfNat 1 e.1 ++ bytesOfNat 7 0 ++ bytesOfNat 32 e.2.toNat).flatten
  | _ => []

/-- Offsets of the sections, each on a 64-byte boundary, from the first one's. -/
def sectionOffsets : List Nat → Nat → List Nat
  | [], _ => []
  | n :: ns, o => o :: sectionOffsets ns (o + ceilDiv n 64 * 64)

/-- The seal record of step t with generation g(t) (R353, R354). -/
def buildRecord (s : State) (t cursor : Nat) : List Byte :=
  let gen := (genOf s t).toNat
  let secs := (List.range 10).map fun i => sectionBytes s t gen cursor (i + 1)
  let offs := sectionOffsets (secs.map (·.length)) 256
  let header := packRec 512 [(47, 0, t), (95, 64, gen), (119, 96, s.job.rank.toNat), (175, 128, cursor), (191, 176, 10),
    (223, 192, (protectedPages s).length), (255, 224, crc32 (secs.getD 8 []))]
  let dir := (List.range 10).map fun i => bytesOfNat 16 (packRec 128 [(7, 0, i + 1), (63, 32, crc32 (secs.getD i [])),
    (95, 64, (secs.getD i []).length), (127, 96, offs.getD i 0)]).toNat
  padTo 64 (bytesOfNat 64 header.toNat ++ dir.flatten) ++ (secs.map (padTo 64)).flatten

/-- Bytes of section id of the record, as `sectionBytes` lays it out (R354, R532). -/
def sectionSize (s : State) : Nat → Nat
  | 1 => 16
  | 2 => 24 * (s.job.tensors.filter fun e => tdKind e.2.desc != 3).length
  | 3 => 64 + 8 * drawCountAll + 24 * s.job.overrides.length
  | 4 => 48 * (historyTensors s).length
  | 5 => (s.job.steer.map fun l => ceilDiv (272 + 8 * l.blocks.length + 4 * l.outliers.length) 64 * 64).sum
  | 6 => ((s.job.shapes.filter fun e => udKind e.2 == 0).map fun e => ceilDiv (16 + 2 * udCols e.2 + 2 * udRows e.2) 64 * 64).sum +
      (s.job.sealedStats.map fun e => ceilDiv e.2.length 64 * 64).sum
  | 7 => 16 + ((validGroups s).map fun e => 32 + 8 * e.2.members.length).sum
  | 8 => 8 * 65536
  | 9 => 4 * (protectedPages s).length
  | 10 => 40 * s.job.optsets.length
  | _ => 0

/-- REC_PAGES: the seal record's size in pages (R351), from the sizes of its sections. -/
def recPages (s : State) : Nat :=
  pagesOf (256 + (((List.range 10).map fun i => ceilDiv (sectionSize s (i + 1)) 64 * 64)).sum)

/-! ### Reading a record -/

/-- Bytes of section id of a record, and its CRC in the directory. -/
def recordSection (rec_ : List Byte) (id : Nat) : List Byte × Nat :=
  let n := leAt rec_ 22 2
  match (List.range n).find? fun i => leAt rec_ (64 + 16 * i) 1 == id with
  | none => ([], 0)
  | some i =>
    let e := 64 + 16 * i
    (slice rec_ (leAt rec_ (e + 12) 4) (leAt rec_ (e + 8) 4), leAt rec_ (e + 4) 4)

/-- A section's CRC holds. -/
def sectionOk (rec_ : List Byte) (id : Nat) : Bool :=
  let (b, c) := recordSection rec_ id
  crc32 b == c

/-- The checks of R382 on a record, in table order: COND and ITEM of the first that fails (rows 2 to 6). -/
def checkRecord (s : State) (rec_ : List Byte) (x : BitVec 32) (rank : BitVec 24) (cursor : BitVec 48) :
    Option (Nat × Nat) :=
  let step := leAt rec_ 0 6
  let gen := BitVec.ofNat 32 (leAt rec_ 8 4)
  let ds := (recordSection rec_ 3).1
  if gen != x then some (2, 8)
  else if genOf s step != gen then some (2, 0)
  else if leAt rec_ 12 3 ≠ rank.toNat then some (3, 12)
  else if leAt rec_ 28 4 ≠ crc32 (pageListBytes s) then some (4, 28)
  else if leAt rec_ 24 4 ≠ (protectedPages s).length then some (4, 24)
  else
    match [1, 2, 3, 5, 6, 7, 8, 9, 10].find? fun id => !sectionOk rec_ id with
    | some id => some (5, id)
    | none =>
      if leAt ds 0 6 ≠ step then some (6, 0)
      else if leAt ds 20 4 ≠ x.toNat then some (6, 20)
      else if leAt ds 8 6 ≠ cursor.toNat then some (6, 8)
      else if leAt ds 32 8 ≠ s.job.seed.toNat then some (6, 32)
      else if leAt ds 16 3 ≠ rank.toNat then some (6, 16)
      else if leAt ds 24 4 ≠ drawCountAll then some (6, 24)
      else if 256 < leAt ds 28 2 then some (6, 28)
      else none

/-! ### Loading the sections (R383, R384) -/

/-- A scale history emptied: no pin and the descriptor's scale; calibration is entered when the next step begins (R162, R383). -/
def emptyHistory (h : Nat) (d : BitVec 512) : BitVec 384 :=
  packRec 384 [(31, 0, h), (47, 32, tdScale d)]

/-- Tensors with the mill states of section 2 and the histories of section 4 (emptied where its CRC fails). -/
def loadTensors (s : State) (rec_ : List Byte) : State :=
  let s2 := (recordSection rec_ 2).1
  let s4 := (recordSection rec_ 4).1
  let ok4 := sectionOk rec_ 4
  let one := fun (e : Nat × Tensor) =>
    let m := match (List.range (s2.length / 24)).find? fun i => leAt s2 (24 * i) 4 == e.1 with
      | some i => BitVec.ofNat 128 (leAt s2 (24 * i + 8) 16)
      | none => e.2.mill
    let h := if !ok4 then emptyHistory e.1 e.2.desc
      else match (List.range (s4.length / 48)).find? fun i => leAt s4 (48 * i) 4 == e.1 with
        | some i => BitVec.ofNat 384 (leAt s4 (48 * i) 48)
        | none => e.2.hist
    (e.1, { e.2 with mill := m, hist := h })
  { s with job := { s.job with tensors := s.job.tensors.map one } }

/-- The draw state of section 3: every counter and override (R303, R305). -/
def loadDraws (s : State) (rec_ : List Byte) : State :=
  let d := (recordSection rec_ 3).1
  let draws := (drawKeys.zip (cut 8 drawCountAll (d.drop 64))).filterMap fun kb =>
    let v := natOfBytes kb.2
    if v = 0 then none else some (kb.1, BitVec.ofNat 64 v)
  let o := 64 + 8 * drawCountAll
  let ovr := (List.range (leAt d 28 2)).map fun i =>
    (leAt d (o + 24 * i + 16) 2, BitVec.ofNat 128 (leAt d (o + 24 * i) 16))
  { s with job := { s.job with draws := draws, overrides := ovr, rank := BitVec.ofNat 24 (leAt d 16 3),
                               cursor := BitVec.ofNat 48 (leAt d 8 6) } }

/-- Section 5's blocks, read one after another into the steered layers. -/
def loadSteer (fuel : Nat) (bs : List Byte) (ls : List SteerLayer) : List SteerLayer :=
  match fuel with
  | 0 => ls
  | fuel + 1 =>
    if bs.length < 272 then ls
    else
      let nb := leAt bs 4 4
      let a := leAt bs 8 4
      let size := ceilDiv (272 + 8 * nb + 4 * a) 64 * 64
      let ls := ls.map fun l =>
        if fld l.desc 15 0 = leAt bs 0 2 then
          { l with pinWt := leAt bs 2 1, pinAct := leAt bs 3 1, layer := BitVec.ofNat 2048 (leAt bs 16 256),
                   blocks := (List.range nb).map fun i => BitVec.ofNat 64 (leAt bs (272 + 8 * i) 8),
                   outliers := (List.range a).map fun i => BitVec.ofNat 32 (leAt bs (272 + 8 * nb + 4 * i) 4) }
        else l
      loadSteer fuel (bs.drop size) ls

/-- Section 6's blocks, by handle. -/
def shardsIn (fuel : Nat) (bs : List Byte) (m : List (Nat × List Byte)) : List (Nat × List Byte) :=
  match fuel with
  | 0 => m
  | fuel + 1 =>
    if bs.length < 16 then m
    else
      let n := 16 + 2 * leAt bs 4 4 + 2 * leAt bs 8 4
      shardsIn fuel (bs.drop (ceilDiv n 64 * 64)) (mapSet m (leAt bs 0 4) (bs.take n))

/-- Section 6 restored: the arrays of each shard whose place is known are written back, as the record holds them or, where it has no
block, as they were before the shard's first prologue; the blocks of the others wait for a descriptor (R286, R380, log 89). -/
def loadShards (s : State) (bs : List Byte) (tag : Nat) : State :=
  let m := shardsIn (bs.length + 1) bs []
  let s := (s.job.shapes.filter fun e => udKind e.2 == 0).foldl (fun s e =>
    match mapFind m e.1, mapFind s.job.firstStats e.1 with
    | some b, _ => putStatArrays s e.2 (b.drop 16) tag
    | none, some b => putStatArrays s e.2 b tag
    | none, none => s) s
  { s with job := { s.job with sealedStats := m.filter fun e => (mapFind s.job.shapes e.1).isNone } }

/-- Section 7's group records: a held record whose GEN is later stands; every record in force then takes the later
GEN plus one (R384). -/
def loadGroups (fuel : Nat) (bs : List Byte) (gs : List (Nat × GroupRec)) : List (Nat × GroupRec) :=
  match fuel with
  | 0 => gs
  | fuel + 1 =>
    if bs.length < 32 then gs
    else
      let hdr := BitVec.ofNat 256 (leAt bs 0 32)
      let n := fld hdr 30 16
      let rec_ : GroupRec := ⟨hdr, (List.range n).map fun i => BitVec.ofNat 64 (leAt bs (32 + 8 * i) 8)⟩
      let g := fld hdr 7 0
      let gs := match mapFind gs g with
        | some old => if laterGen (gGen old) (gGen rec_) then gs else mapSet gs g rec_
        | none => mapSet gs g rec_
      loadGroups fuel (bs.drop (32 + 8 * n)) gs

/-- Every group record in force takes its GEN plus one (R384). -/
def bumpGroups (gs : List (Nat × GroupRec)) : List (Nat × GroupRec) :=
  gs.map fun e => if gValid e.2 then (e.1, { e.2 with header := setFld e.2.header 63 32 ((gGen e.2).toNat + 1) }) else e

/-- Section 8's route table and section 10's optimiser sets. -/
def loadRoutes (bs : List Byte) : List (Nat × BitVec 64) :=
  (cut 8 (bs.length / 8) bs).zipIdx.filterMap fun p =>
    let v := natOfBytes p.1
    if v = 0 then none else some (p.2, BitVec.ofNat 64 v)

def loadOptsets (bs : List Byte) : List (Nat × BitVec 256) :=
  (List.range (bs.length / 40)).map fun i => (leAt bs (40 * i) 1, BitVec.ofNat 256 (leAt bs (40 * i + 8) 32))

/-- The sections of a record are loaded and the job step counter becomes STEP (R380, R381, R383, R384). -/
def loadRecord (s : State) (rec_ : List Byte) : State :=
  let s := { s with job := { s.job with update := BitVec.ofNat 128 (leAt (recordSection rec_ 1).1 0 16) } }
  let s := loadDraws (loadTensors s rec_) rec_
  let s := { s with job := { s.job with steer := loadSteer 4097 (recordSection rec_ 5).1 s.job.steer } }
  let s := loadShards s (recordSection rec_ 6).1 (leAt rec_ 8 4 % 64)
  let s7 := (recordSection rec_ 7).1
  let s := { s with fab := { s.fab with groups := bumpGroups (loadGroups 256 (s7.drop 16) s.fab.groups) } }
  let s := { s with fab := { s.fab with routes := loadRoutes (recordSection rec_ 8).1 } }
  let step := BitVec.ofNat 48 (leAt rec_ 0 6)
  { s with ident := { s.ident with jobStep := step, committed := BitVec.ofNat 32 (leAt rec_ 8 4) },
           job := { s.job with barrier := leAt s7 2 1, optsets := loadOptsets (recordSection rec_ 10).1, lastBegun := step } }

end Sys2Proof.Machine
end

