-- ==== Sys2Proof/Machine/Waybill.lean ====
section
/-! DEFINITION. Waybills in the Nalno encoding (R204 to R211): decoding an image, the checks that the
waybill alone decides, and what the interpreter of R207 emits at any position (R202). -/

namespace Sys2Proof.Machine

/-- One EMIT (R206). -/
structure EmitIns where
  aSrc : Nat
  bsSrc : Nat
  srcBuf : Bool
  gadd : Bool
  kmask : Nat
  dst : Nat
  aDst : Nat
  bsDst : Nat
  run : Nat
  deriving DecidableEq, Repr

/-- One GATHER (R206). -/
structure GatherIns where
  aIdx : Nat
  bsIdx : Nat
  pitch : Nat
  rows : Nat
  deriving DecidableEq, Repr

/-- A decoded Nalno instruction (R206). -/
inductive WIns where
  | fin
  | loop (count : Nat)
  | endl
  | init (reg : Nat) (v : Int)
  | stride (reg : Nat) (v : Int)
  | bound (reg : Nat) (ext : Nat)
  | gather (g : GatherIns)
  | emit (e : EmitIns)
  deriving DecidableEq, Repr

/-- Bits of an instruction word that its encoding names (R206); every other bit is reserved. -/
def wInsMask (op : Nat) : Nat :=
  match op with
  | 1 => 0xFFFFFF3F
  | 3 => 0xFFFFFFFFFFFF073F
  | 4 => 0xFFFFFFFFFFFF073F
  | 5 => 0x0000FFFFFFFF073F
  | 6 => 0xFFFFFFFFFFFF0F3F
  | 7 => 0x0000FFFF00FFFF3F
  | _ => 0x3F

/-- Decode one instruction word; none for an opcode above 0x07 or a reserved bit set (R211 row 1). -/
def wDecode (x : Nat) : Option WIns :=
  let op := x % 64
  if 7 < op || x % 2 ^ 64 != x &&& wInsMask op then none
  else
    let reg := natFld x 10 8
    some (match op with
      | 0 => .fin
      | 1 => .loop (natFld x 31 8)
      | 2 => .endl
      | 3 => .init reg (signedOf 48 (natFld x 63 16))
      | 4 => .stride reg (signedOf 48 (natFld x 63 16))
      | 5 => .bound reg (natFld x 47 16)
      | 6 => .gather ⟨natFld x 9 8, natFld x 11 10, natFld x 39 16, natFld x 63 40⟩
      | _ => .emit ⟨natFld x 9 8, natFld x 11 10, x.testBit 12, x.testBit 13, natFld x 17 14,
          natFld x 19 18, natFld x 21 20, natFld x 23 22, natFld x 47 32⟩)

/-- Header fields of a waybill image (R204). -/
def wLength (img : List Byte) : Nat := (leAt img 0 1) % 128
def wClass (img : List Byte) : Nat := natFld (leAt img 0 2) 9 8
def wPersist (img : List Byte) : Bool := (leAt img 0 2).testBit 10
def wFill0 (img : List Byte) : Nat := leAt img 2 2
def wFill1 (img : List Byte) : Nat := leAt img 4 2
def wDrain0 (img : List Byte) : Nat := leAt img 6 2

/-- The instruction words of an image. -/
def wWords (img : List Byte) : List Nat := (List.range (wLength img)).map fun i => leAt img (32 + 8 * i) 8

/-- The instructions up to END, each with its index; the flag tells whether END was found and every word
decoded before it. -/
def wInstrs (img : List Byte) : List (Nat × WIns) :=
  (((wWords img).map wDecode).zipIdx.filterMap fun x => x.1.map fun i => (x.2, i)).takeWhile
    fun x => x.2 != .fin

/-- A loop nest: what `exec` of R207 walks. -/
inductive WNode where
  | init (reg : Nat) (v : Int)
  | bound (reg : Nat) (ext : Nat)
  | gather (g : GatherIns)
  | emit (e : EmitIns)
  | loop (count : Nat) (strides : List (Nat × Int)) (body : List WNode)

/-- The STRIDEs directly after a LOOP, and the rest. -/
def takeStrides : List WIns → List (Nat × Int) × List WIns
  | .stride r v :: rest => let (s, t) := takeStrides rest; ((r, v) :: s, t)
  | rest => ([], rest)

/-- Nest instructions into blocks; `fuel` bounds the instructions. -/
def wNest : Nat → List WIns → List WNode × List WIns
  | 0, rest => ([], rest)
  | _ + 1, [] => ([], [])
  | fuel + 1, i :: rest =>
    match i with
    | .fin => ([], [])
    | .endl => ([], rest)
    | .loop c =>
      let (st, rest) := takeStrides rest
      let (body, rest) := wNest fuel rest
      let (more, rest) := wNest fuel rest
      (.loop c st body :: more, rest)
    | .init r v => let (more, rest) := wNest fuel rest; (.init r v :: more, rest)
    | .bound r x => let (more, rest) := wNest fuel rest; (.bound r x :: more, rest)
    | .gather g => let (more, rest) := wNest fuel rest; (.gather g :: more, rest)
    | .emit e => let (more, rest) := wNest fuel rest; (.emit e :: more, rest)
    | .stride _ _ => wNest fuel rest

/-- The program of an image. -/
def wProgram (img : List Byte) : List WNode := (wNest 65 ((wInstrs img).map (·.2))).1

/-- A GATHER as it was executed: the instruction, the value of its index register, and the position counter at that moment. Of
several at one position only the last is ever used. -/
structure GatherAt where
  ins : GatherIns
  a   : Int
  pos : Nat
  deriving DecidableEq, Repr

/-- The registers of R205: A0-A3 and K0-K3 in `r`, extents in `ext`, the GATHER that set G last, and the position counter. -/
structure WRegs where
  r   : List Int := List.replicate 8 0
  ext : List Nat := List.replicate 8 0
  g   : Option GatherAt := none
  pos : Nat := 0
  deriving DecidableEq, Repr

/-- Register x as wide as R205 gives it: A0-A3 48-bit signed, K0-K3 32-bit signed. -/
def wrapReg (x : Nat) (v : Int) : Int := Int.bmod v (if x < 4 then 2 ^ 48 else 2 ^ 32)

/-- Add k times every stride to its register. -/
def addStrides (k : Int) (st : List (Nat × Int)) (r : WRegs) : WRegs :=
  { r with r := st.foldl (fun rs s => rs.set s.1 (wrapReg s.1 (rs.getD s.1 0 + k * s.2))) r.r }

mutual
/-- Positions a block emits. -/
def blockLen : List WNode → Nat
  | [] => 0
  | n :: ns => nodeLen n + blockLen ns
/-- Positions a node emits. -/
def nodeLen : WNode → Nat
  | .emit e => e.run
  | .loop c _ body => c * blockLen body
  | _ => 0
end

mutual
/-- G after a block has run from the given registers. -/
def blockG : List WNode → WRegs → Option GatherAt
  | [], r => r.g
  | n :: ns, r => blockG ns (nodeExit n r)
/-- The registers after a node: a loop restores them (R207) and leaves the G of its last iteration. -/
def nodeExit : WNode → WRegs → WRegs
  | .init x v, r => { r with r := r.r.set x (wrapReg x v) }
  | .bound x e, r => { r with ext := r.ext.set x e }
  | .gather g, r => { r with g := some ⟨g, r.r.getD g.aIdx 0, r.pos⟩ }
  | .emit e, r => { r with pos := r.pos + e.run }
  | .loop c st body, r =>
    { r with g := blockG body { addStrides ((c : Int) - 1) st r with pos := r.pos + (c - 1) * blockLen body },
             pos := r.pos + c * blockLen body }
end

/-- What is emitted at one position: the EMIT, the registers, and the index within its run. -/
structure Emission where
  ins  : EmitIns
  regs : WRegs
  j    : Nat
  deriving DecidableEq, Repr

mutual
/-- The emission at position `pos` of a block run from the given registers (R202). -/
def blockAt : List WNode → Nat → WRegs → Option Emission
  | [], _, _ => none
  | n :: ns, pos, r =>
    if pos < nodeLen n then nodeAt n pos r else blockAt ns (pos - nodeLen n) (nodeExit n r)
/-- The emission at position `pos` of one node. -/
def nodeAt : WNode → Nat → WRegs → Option Emission
  | .emit e, pos, r => some ⟨e, r, pos⟩
  | .loop _ st body, pos, r =>
    let i := pos / blockLen body
    let prev := { addStrides ((i : Int) - 1) st r with pos := r.pos + (i - 1) * blockLen body }
    let g := if i = 0 then r.g else blockG body prev
    blockAt body (pos % blockLen body) { addStrides i st r with g := g, pos := r.pos + i * blockLen body }
  | _, _, _ => none
end

/-- Number of positions of a waybill. -/
def waybillLen (img : List Byte) : Nat := blockLen (wProgram img)

/-- What a waybill emits at a position (R202, R207). -/
def waybillAt (img : List Byte) (pos : Nat) : Option Emission := blockAt (wProgram img) pos {}

/-- Does KMASK find the position in padding (R207)? -/
def emissionPadded (e : Emission) : Bool :=
  (List.range 4).any fun k => e.ins.kmask.testBit k &&
    !(decide (0 ≤ e.regs.r.getD (4 + k) 0) && decide (e.regs.r.getD (4 + k) 0 < e.regs.ext.getD (4 + k) 0))

/-! ### R211: the rows that the waybill alone decides -/

/-- Row 2 on one instruction: pairing, depth, zero counts. -/
def scanPairs (open_ : List Nat) : List (Nat × WIns) → Option Nat
  | [] => open_.head?
  | (i, x) :: rest =>
    match x with
    | .loop c => if c = 0 || 6 ≤ open_.length then some i else scanPairs (i :: open_) rest
    | .endl => match open_ with
      | [] => some i
      | _ :: o => scanPairs o rest
    | .emit e => if e.run = 0 then some i else scanPairs open_ rest
    | _ => scanPairs open_ rest

/-- Row 3: a STRIDE stands directly after a LOOP or a STRIDE. -/
def scanStrides (ok : Bool) : List (Nat × WIns) → Option Nat
  | [] => none
  | (i, x) :: rest =>
    match x with
    | .stride _ _ => if ok then scanStrides true rest else some i
    | .loop _ => scanStrides true rest
    | _ => scanStrides false rest

/-- Row 4: INIT and BOUND stand before the first LOOP, and BOUND names a K register. -/
def scanInits (loopSeen : Bool) : List (Nat × WIns) → Option Nat
  | [] => none
  | (i, x) :: rest =>
    match x with
    | .init _ _ => if loopSeen then some i else scanInits loopSeen rest
    | .bound r _ => if loopSeen || r < 4 then some i else scanInits loopSeen rest
    | .loop _ => scanInits true rest
    | _ => scanInits loopSeen rest

/-- Row 5: KMASK selects only K registers that have a BOUND. -/
def scanMasks (all : List (Nat × WIns)) : Option Nat :=
  let bounds := all.filterMap fun x => match x.2 with | .bound r _ => some r | _ => none
  (all.find? fun x => match x.2 with
    | .emit e => (List.range 4).any fun k => e.kmask.testBit k && !bounds.contains (4 + k)
    | _ => false).map (·.1)

/-- Row 6: an EMIT with GADD has a GATHER before it in its own body or an enclosing one. The stack holds,
innermost first, whether each open body has had a GATHER. -/
def scanGathers (st : List Bool) : List (Nat × WIns) → Option Nat
  | [] => none
  | (i, x) :: rest =>
    match x with
    | .loop _ => scanGathers (false :: st) rest
    | .endl => scanGathers st.tail rest
    | .gather _ => scanGathers (true :: st.tail) rest
    | .emit e => if e.gadd && !st.any id then some i else scanGathers st rest
    | _ => scanGathers st rest

/-- Row 7: DST, SRC_BUF and the buffer fields suit CLASS. -/
def scanDst (img : List Byte) (all : List (Nat × WIns)) : Option Nat :=
  (all.find? fun x => match x.2 with
    | .emit e =>
      (if wClass img = 3 then e.dst == 0 else e.dst != 0) ||
      (e.srcBuf && wDrain0 img == 0xFFFF) ||
      (e.dst == 1 && wFill0 img == 0xFFFF) || (e.dst == 2 && wFill1 img == 0xFFFF)
    | _ => false).map (·.1)

/-- A value in the range that row 8 allows A registers. -/
def inA (v : Int) : Bool := decide (-(2 ^ 47 : Int) ≤ v) && decide (v < (2 ^ 47 : Int))

/-- An open loop as row 8 sees it: its COUNT, and what its STRIDEs of each register add up to. -/
abbrev OpenLoop := Nat × List Int

/-- The lowest (`up` false) or highest amount that open loops add to register x: each adds its sum 0 to COUNT − 1 times. -/
def extremeOf (up : Bool) (x : Nat) (ls : List OpenLoop) : Int :=
  ls.foldl (fun v l => let k := ((l.1 : Int) - 1) * l.2.getD x 0; v + (if up then max 0 k else min 0 k)) 0

/-- Row 8 on registers: every value an A register takes. `base` holds the INIT values and `open_` the loops open, innermost first.
The STRIDEs of one register in one loop act together, so the last of them is the one concerned (log 65). -/
def scanRange (base : List Int) (open_ : List OpenLoop) : List (Nat × WIns) → Option Nat
  | [] => none
  | (i, x) :: rest =>
    match x, open_ with
    | .init r v, _ => if r < 4 && !inA v then some i else scanRange (base.set r v) open_ rest
    | .loop c, _ => scanRange base ((c, List.replicate 8 0) :: open_) rest
    | .endl, _ => scanRange base open_.tail rest
    | .stride r v, l :: outer =>
      let ls := (l.1, l.2.set r (l.2.getD r 0 + v)) :: outer
      let more := (rest.takeWhile fun y => match y.2 with | .stride _ _ => true | _ => false).any fun y =>
        match y.2 with | .stride q _ => q == r | _ => false
      let ok := inA (base.getD r 0 + extremeOf false r ls) && inA (base.getD r 0 + extremeOf true r ls)
      if r < 4 && !more && !ok then some i else scanRange base ls rest
    | _, _ => scanRange base open_ rest

mutual
/-- One past the last position of each EMIT of a block that begins at position `start` in the last iterations of its loops. -/
def blockEnds : List WNode → (start : Nat) → List Nat
  | [], _ => []
  | n :: ns, start => nodeEnds n start ++ blockEnds ns (start + nodeLen n)
/-- The same of one node. -/
def nodeEnds : WNode → (start : Nat) → List Nat
  | .emit e, start => [start + e.run]
  | .loop c _ body, start => blockEnds body (start + (c - 1) * blockLen body)
  | _, _ => []
end

/-- Row 8 on positions: the first EMIT with a position at or beyond 2^48. -/
def scanPositions (img : List Byte) (all : List (Nat × WIns)) : Option Nat :=
  let emits := all.filterMap fun x => match x.2 with | .emit _ => some x.1 | _ => none
  ((emits.zip (blockEnds (wProgram img) 0)).find? fun x => decide (2 ^ 48 < x.2)).map (·.1)

/-- Row 8: the first instruction concerned. -/
def scanRow8 (img : List Byte) (all : List (Nat × WIns)) : Option Nat :=
  match scanRange (List.replicate 8 0) [] all, scanPositions img all with
  | some i, some j => some (min i j)
  | some i, none => some i
  | none, o => o

/-- Row 1 on the instruction words. -/
def scanWords : List Nat → Nat → Option Nat
  | [], _ => none
  | w :: ws, i => match wDecode w with
    | none => some i
    | some _ => scanWords ws (i + 1)

/-- R211 rows 1 to 8: the first failing row with its ITEM. -/
def waybillCheck (img : List Byte) : Option (Nat × Nat) :=
  let n := wLength img
  let all := wInstrs img
  let hdr := leAt img 0 32
  if n = 0 || 64 < n || hdr.testBit 7 || natFld hdr 15 11 != 0 || natFld hdr 255 64 != 0 then
    some (1, 0xFFFFFFFF)
  else match scanWords (wWords img) 0 with
  | some i => some (1, i)
  | none =>
    if all.length = n then some (1, n)
    else match scanPairs [] all with
    | some i => some (2, i)
    | none => match scanStrides false all with
    | some i => some (3, i)
    | none => match scanInits false all with
    | some i => some (4, i)
    | none => match scanMasks all with
    | some i => some (5, i)
    | none => match scanGathers [false] all with
    | some i => some (6, i)
    | none => match scanDst img all with
    | some i => some (7, i)
    | none => (scanRow8 img all).map fun i => (8, i)

/-- Buffers a waybill fills (R218). -/
def wFills (img : List Byte) : List Nat := [wFill0 img, wFill1 img].filter (· != 0xFFFF)

/-- Buffers a waybill drains (R218). -/
def wDrains (img : List Byte) : List Nat := [wDrain0 img].filter (· != 0xFFFF)

end Sys2Proof.Machine
end

