-- ==== Sys2Proof/Machine/Plans.lean ====
section
/-! DEFINITION. Operation entries and what they name: fields, the shape of a loom operation's units and tiles, and the
conditions under which an entry is refused (R96, R97, R108, R109, R182, R211, R412, R413). -/

namespace Sys2Proof.Machine

/-! ### Fields of an operation entry (R108, R412) -/

abbrev Entry := BitVec 2048

def eKind (e : Entry) : Nat := fld e 3 0
/-- WAIT0 to WAIT3 that name an operation. -/
def eWaits (e : Entry) : List Nat :=
  ((List.range 4).map fun i => fld e (16 * i + 31) (16 * i + 16)).filter (· != 0xFFFF)

def eDataflow (e : Entry) : Nat := fld e 129 128
def eNummode (e : Entry) : Nat := fld e 131 130
def eFmtS (e : Entry) : Nat := fld e 135 132
def eFmtX (e : Entry) : Nat := fld e 139 136
def eFmtO (e : Entry) : Nat := fld e 143 140
def ePurpose (e : Entry) : Nat := fld e 145 144
def eBias (e : Entry) : Bool := bitOf e 146
def eClip (e : Entry) : Bool := bitOf e 147
def eOutlier (e : Entry) : Bool := bitOf e 148
def eOsVec (e : Entry) : Nat := fld e 156 152
def eK (e : Entry) : Nat := fld e 191 160
def eN (e : Entry) : Nat := fld e 223 192
def eM (e : Entry) : Nat := fld e 255 224
def eClipLo (e : Entry) : Nat := fld e 271 256
def eClipHi (e : Entry) : Nat := fld e 287 272
def eLayer (e : Entry) : Nat := fld e 303 288
def eTs (e : Entry) : Nat := fld e 415 384
def eTx (e : Entry) : Nat := fld e 447 416
def eTo (e : Entry) : Nat := fld e 479 448
def eTb (e : Entry) : Nat := fld e 511 480
def eL0 (e : Entry) : Nat := fld e 520 512
def eNloom (e : Entry) : Nat := fld e 530 521
/-- Slot arm block k. -/
def eArm (e : Entry) (k : Nat) : BitVec 320 := BitVec.ofNat 320 (fld e (320 * k + 1087) (320 * k + 768))

def armWaybill (a : BitVec 320) : Nat := fld a 15 0
def armBase (a : BitVec 320) (b : Nat) : Nat := fld a (64 * b + 111) (64 * b + 64)
def armFmt (a : BitVec 320) (b : Nat) : Nat := fld a (64 * b + 115) (64 * b + 112)

def vVop (e : Entry) : Nat := fld e 135 128
def vNummode (e : Entry) : Nat := fld e 137 136
def vFmtIn (e : Entry) : Nat := fld e 141 138
def vFmtOut (e : Entry) : Nat := fld e 145 142
def vPurpose (e : Entry) : Nat := fld e 147 146
def vClass (e : Entry) : Nat := fld e 149 148
def vPred (e : Entry) : Nat := fld e 153 150
def vLacc (e : Entry) : Nat := fld e 159 154
def vCount (e : Entry) : Nat := fld e 223 192
def vW0 (e : Entry) : Nat := fld e 230 224
def vNw (e : Entry) : Nat := fld e 238 231
def vX (e : Entry) : Nat := fld e 303 256
def vY (e : Entry) : Nat := fld e 367 320
def vZ (e : Entry) : Nat := fld e 431 384
def vD (e : Entry) : Nat := fld e 495 448
def vTout (e : Entry) : Nat := fld e 543 512

/-- The collective descriptor (R327, R412). -/
def eColl (e : Entry) : BitVec 512 := BitVec.ofNat 512 (fld e 639 128)

def cColl (d : BitVec 512) : Nat := fld d 3 0
def cFmt (d : BitVec 512) : Nat := fld d 7 4
def cGroup (d : BitVec 512) : Nat := fld d 15 8
def cPurpose (d : BitVec 512) : Nat := fld d 17 16
def cSq (d : BitVec 512) : Nat := fld d 19 18
def cVote (d : BitVec 512) : Bool := bitOf d 20
def cTagrec (d : BitVec 512) : Bool := bitOf d 21
def cTagchk (d : BitVec 512) : Bool := bitOf d 22
def cTagonly (d : BitVec 512) : Bool := bitOf d 23
def cRoot (d : BitVec 512) : Nat := fld d 38 24
def cCount (d : BitVec 512) : Nat := fld d 71 40
def cSrc (d : BitVec 512) : Nat := fld d 119 72
def cDst (d : BitVec 512) : Nat := fld d 167 120
def cStat (d : BitVec 512) : Nat := fld d 215 168
def cNcols (d : BitVec 512) : Nat := fld d 247 216
def cGslot (d : BitVec 512) : Nat := fld d 255 248
def cTensor (d : BitVec 512) : Nat := fld d 287 256
def cSrcTensor (d : BitVec 512) : Nat := fld d 319 288
def cQueue (d : BitVec 512) : Nat := fld d 325 320

/-- Operands an operation reads: x, y, z (R412). -/
def vecReads (e : Entry) : List Nat :=
  match vVop e with
  | 3 => [vX e, vY e, vZ e]
  | 0 | 1 | 2 | 4 | 5 | 6 | 8 => [vX e, vY e]
  | 13 => if vY e = 0 then [vX e] else [vX e, vY e]
  | 14 => []
  | 15 => []
  | _ => [vX e]

/-! ### Plans and operations -/

/-- Entry i of plan p. -/
def planEntry (s : State) (p i : Nat) : Entry :=
  match mapFind s.job.plans p with
  | some x => x.entries.getD i 0
  | none => 0

/-- Entries of the plan of the step. -/
def stepEntries (s : State) : List Entry :=
  match mapFind s.job.plans s.step.plan with
  | some x => x.entries
  | none => []

/-- Operation i of the step as it runs: its admitted entry where it has started. -/
def stepOp (s : State) (i : Nat) : Entry :=
  match mapFind s.eng.ops i with
  | some r => r.entry
  | none => planEntry s s.step.plan i

/-- A format field, binary32 for the reserved code. -/
def fmtOf (c : Nat) : Fmt := (fmtOfCode c).getD .f32

/-! ### Shape of a loom operation (R56, R66, R75, R96, R97) -/

/-- Cell mode of the operation (R54). -/
def opMode (e : Entry) : CellMode := cellMode (fmtOf (eFmtS e)) (fmtOf (eFmtX e)) (eNummode e == 2)

/-- The operation is L-mode. -/
def opLmode (e : Entry) : Bool := opMode e == .l

/-- Reduction elements of a full k-tile (R56). -/
def ktWidth (e : Entry) : Nat := 64 * prodsPer (opMode e) (fmtOf (eFmtS e)) (fmtOf (eFmtX e))

/-- Number of k-tiles. -/
def ktCount (e : Entry) : Nat := ceilDiv (eK e) (ktWidth e)

/-- Elements of k-tile t. -/
def ktLen (e : Entry) (t : Nat) : Nat := min (ktWidth e) (eK e - ktWidth e * t)

/-- Passes (R75). -/
def opPasses (e : Entry) : Nat := passCount (opMode e) (fmtOf (eFmtS e)) (fmtOf (eFmtX e))

/-- Stationary nibbles g, the loads of a k-tile (R66): one in L-mode, two for the 8-bit pieces of split mode. -/
def opLoads (e : Entry) : Nat :=
  match opMode e with
  | .l => 1
  | .mSplit => 2
  | _ => nibbles (mWidth (fmtOf (eFmtS e)))

/-- Vectors of a full streamed tile V_t (R97). -/
def tileVecs (e : Entry) : Nat := if eDataflow e = 1 then eOsVec e else 64

/-- Streamed tiles T_s. -/
def streamTiles (e : Entry) : Nat := ceilDiv (eM e) (tileVecs e)

/-- Output tiles. -/
def tileCount (e : Entry) : Nat := ceilDiv (eN e) 64 * streamTiles e

/-- First column and columns, first vector and vectors of a tile. -/
def tileCol (e : Entry) (t : Nat) : Nat := t / streamTiles e * 64
def tileCols (e : Entry) (t : Nat) : Nat := min 64 (eN e - tileCol e t)
def tileVec (e : Entry) (t : Nat) : Nat := t % streamTiles e * tileVecs e
def tileVecsOf (e : Entry) (t : Nat) : Nat := min (tileVecs e) (eM e - tileVec e t)

/-- Home loom of a tile (R182), and its workshop and guild (R92). -/
def homeLoom (e : Entry) (t : Nat) : Nat := eL0 e + t % eNloom e
def workshopOf (loom : Nat) : Nat := loom / 4
def guildOf (loom : Nat) : Nat := loom / 32

/-- The feeder of a loom among the module's carters (R172, R226). -/
def feederOf (loom : Nat) : Nat := loom / 4 * 6 + loom % 4

/-! ### Gates seen by plans (R459) -/

/-- State of a gate node: level 1 die, 2 guild, 3 workshop, 4 loom (R460: on unless listed). -/
def gateAt (s : State) (level index : Nat) : Nat := mapGet s.pow.gates (1024 * level + index) 1

/-- A loom and every node above it are on. -/
def loomOn (s : State) (l : Nat) : Bool :=
  gateAt s 4 l == 1 && gateAt s 3 (l / 4) == 1 && gateAt s 2 (l / 32) == 1 && gateAt s 1 (l / 256) == 1

/-- A workshop and every node above it are on. -/
def workshopOn (s : State) (w : Nat) : Bool :=
  gateAt s 3 w == 1 && gateAt s 2 (w / 8) == 1 && gateAt s 1 (w / 64) == 1

/-! ### Refused entries: what the entry decides alone (R109, R413) -/

/-- A format narrower than 8 bits. -/
def narrow (c : Nat) : Bool := match fmtOfCode c with | some f => decide (f.width < 8) | none => false

/-- A NaN bfloat16 code. -/
def bf16Nan (c : Nat) : Bool := (decode .bf16 false c).cls == .nan

/-- bfloat16 codes in order, infinities included: a > b. -/
def bf16Gt (a b : Nat) : Bool :=
  let x := decode .bf16 false a
  let y := decode .bf16 false b
  match x.cls, y.cls with
  | .finite, .finite => dyLt y.v x.v
  | .posInf, .posInf => false
  | .posInf, _ => true
  | _, .negInf => x.cls != .negInf
  | _, _ => false

/-- The first row of R109 that the block fails by itself. -/
def blockBad (e : Entry) : Option Nat :=
  let rows : List (Nat × Bool) :=
    [(1, eDataflow e == 3 || eNummode e == 3 || ePurpose e == 3 || eFmtS e == 15 || eFmtX e == 15 || eFmtO e == 15),
     (2, eFmtS e == 9 || eFmtX e == 9),
     (3, eDataflow e == 1 && (eOsVec e == 0 || decide (16 < eOsVec e))),
     (4, eFmtO e == 9 && (!opLmode e || ePurpose e != 0 || eBias e || eClip e)),
     (5, ePurpose e == 2 && (narrow (eFmtO e) || eFmtO e == 9)),
     (6, ePurpose e == 1 && [0, 1, 2, 3, 8].contains (eFmtO e)),
     (7, eNummode e == 2 && (eFmtO e != 14 || ePurpose e != 0 || eBias e || eClip e || eOutlier e)),
     (8, eClip e && (bf16Nan (eClipLo e) || bf16Nan (eClipHi e) || bf16Gt (eClipLo e) (eClipHi e))),
     (9, eOutlier e && (eDataflow e != 0 || (fmtOf (eFmtS e)).isIeee)),
     (12, eNloom e == 0 || decide (512 < eNloom e) || decide (512 < eL0 e + eNloom e))]
  firstBad rows

/-- The vector entry is refused under R413; `supported` is by operation and formats. -/
def vectorBad (e : Entry) : Bool :=
  let wide := fun (c : Nat) => c == 12 || c == 14
  let op := vVop e
  let formats := match op with
    | 7 => vFmtIn e != 15 && vFmtOut e != 15 && (vFmtIn e == 12 || vFmtIn e == 13 || vFmtIn e == 14) && vFmtOut e != 9
    | 6 => wide (vFmtIn e)
    | 14 => wide (vFmtOut e)
    | 13 => wide (vFmtIn e)
    | 15 => true
    | _ => wide (vFmtIn e) && vFmtIn e == vFmtOut e
  decide (15 < op) || decide (1 < vNummode e) || vPurpose e == 3 || decide (128 < vW0 e + vNw e) || vNw e == 0 || !formats ||
    (vPurpose e == 2 && narrow (vFmtOut e)) || (vPurpose e == 1 && [0, 1, 2, 3, 8, 9].contains (vFmtOut e))

/-! ### Conditions that need other objects (R109 rows 9 to 12, R211 row 9) -/

/-- Elements a tensor has room for. -/
def tensorElems (d : BitVec 512) : Nat :=
  let f := fmtOf (tdFmt d)
  if 8 ≤ f.width then tdBytes d * 8 / f.width else tdBytes d / 4 * perWord f.width

/-- The first row of R109 that fails for want of another object. -/
def blockObjects (s : State) (e : Entry) (allowance : Nat → Nat) : Option Nat :=
  let known := fun (h : Nat) => (mapFind s.job.tensors h).isSome
  let biasBad := match mapFind s.job.tensors (eTb e) with
    | some t => !((tdFmt t.desc == 12 || tdFmt t.desc == 14) &&
        decide ((if eDataflow e = 2 then eM e else eN e) ≤ tensorElems t.desc))
    | none => true
  firstBad [(9, eOutlier e && allowance (eLayer e) == 0),
    (10, !known (eTs e) || !known (eTx e) || !known (eTo e) || (eBias e && (eTb e == 0 || !known (eTb e)))),
    (11, eBias e && biasBad),
    (12, (List.range (eNloom e)).any fun i => !loomOn s (eL0 e + i))]

/-- Class of feeder slot k (R199). -/
def slotClass (k : Nat) : Nat := k

/-- Length that class k requires (R201); none for class 3. -/
def slotLength (e : Entry) (k : Nat) : Option Nat :=
  match k with
  | 0 => some (eM e * eK e)
  | 1 => some (eN e * eK e)
  | 2 => some (eM e * eN e)
  | _ => none

/-- The format that base slots of slot k must have, where they feed an operand. -/
def slotFormat (e : Entry) (k : Nat) : Option Nat :=
  match k with
  | 0 => some (eFmtX e)
  | 1 => some (eFmtS e)
  | 2 => some (eFmtO e)
  | _ => none

/-- Base slots that a waybill's EMITs address as memory: sources in classes 0, 1 and 3, the destination in class 2. -/
def emitBases (img : List Byte) : List Nat :=
  (wInstrs img).filterMap fun x => match x.2 with
    | .emit m => if m.srcBuf then none else some m.bsSrc
    | _ => none

/-- Slot k of the entry fails row 9 of R211. -/
def slotBad (s : State) (e : Entry) (k : Nat) : Bool :=
  let a := eArm e k
  if armWaybill a = 0xFFFF then
    match slotLength e k with
    | some n => n != 0
    | none => false
  else
    match mapFind s.job.waybills (armWaybill a) with
    | none => true
    | some img =>
      wClass img != slotClass k ||
        (match slotLength e k with | some n => waybillLen img != n | none => false) ||
        (match slotFormat e k with | some f => (emitBases img).any fun b => armFmt a b != f | none => false)

/-- The first feeder slot that fails row 9 of R211. -/
def slotsBad (s : State) (e : Entry) : Option Nat := (List.range 4).find? (slotBad s e)

/-! ### Steered formats in an entry (R128) -/

/-- The base formats of slot k replaced where the slot's waybill addresses memory. -/
def steerArm (s : State) (e : Entry) (k : Nat) (f : Option Nat) : Entry :=
  match f, mapFind s.job.waybills (armWaybill (eArm e k)) with
  | some c, some img =>
    (emitBases img).foldl (fun e b => setFld e (320 * k + 64 * b + 883) (320 * k + 64 * b + 880) c) e
  | _, _ => e

/-- A loom or vector entry with the steered format of each tensor that `pick` names in place of its format fields, and of the
base slots that feed or receive it (R128). -/
def steerEntry (s : State) (pick : Nat → Option Nat) (e : Entry) : Entry :=
  let put := fun (e : Entry) (hi lo : Nat) (f : Option Nat) => match f with | some c => setFld e hi lo c | none => e
  match eKind e with
  | 0 =>
    let (fs, fx, fo) := (pick (eTs e), pick (eTx e), pick (eTo e))
    let e' := put (put (put e 135 132 fs) 139 136 fx) 143 140 fo
    steerArm s (steerArm s (steerArm s e' 0 fx) 1 fs) 2 fo
  | 1 =>
    -- X, Y and Z have one format field: the first of them that lies in a steered tensor gives it
    let reads := (vecReads e).filterMap fun a => pick (tensorAt s a)
    put (put e 141 138 reads.head?) 145 142 (pick (vTout e))
  | _ => e

end Sys2Proof.Machine
end

