-- ==== Sys2Proof/Machine/Gathers.lean ====
section
/-! DEFINITION. Messages received, and the shard tags of gathers: recorded, compared, and what a stale gather brings
(R321, R337 to R339). -/

namespace Sys2Proof.Machine

/-! ### Messages (R321, R537) -/

/-- Is it the message of that source, group, phase and operation? -/
def isMsg (src group phase op : Nat) (m : RxMsg) : Bool :=
  m.src == src && m.group == group && m.phase == phase && m.op == op

/-- The message of a source, where something of it has arrived. -/
def findMsg (s : State) (src group phase op : Nat) : Option RxMsg := s.fab.rx.find? (isMsg src group phase op)

/-- A message with nothing in it. -/
def RxMsg.empty (src group phase op : Nat) : RxMsg := ⟨src, group, phase, op, [], [], [], none, false⟩

/-- Every line of a message has arrived. -/
def msgDone (m : RxMsg) : Bool :=
  match m.total with
  | some n => m.lines.length == n
  | none => false

/-- A message stored in place of the one before it. -/
def putMsg (s : State) (m : RxMsg) : State :=
  { s with fab := { s.fab with rx := (s.fab.rx.filter fun x => !isMsg m.src m.group m.phase m.op x) ++ [m] } }

/-- A message with the lines, marks and TAG of one more frame; the flag says that a line was a repeat. -/
def addFrame (m : RxMsg) (f : Frame) : RxMsg × Bool :=
  let (lines, marks, again) := joinLines m.lines m.marks f
  let tags := if m.tags.contains (fTag f) then m.tags else m.tags ++ [fTag f]
  let m := { m with lines := lines, marks := marks, tags := tags }
  (if fLast f then { m with total := some (fOffset f + fLen f) } else m, again)

/-! ### Shard tags (R337 to R339) -/

/-- The module's own shard tag of a gather (R337). -/
def ownTag (s : State) (d : BitVec 512) : Nat := tmUpdates (millState s (cTensor d)) % 2 ^ 32

/-- Tags seen of member i for gather op. -/
def memberTags (s : State) (g : GroupRec) (op i : Nat) : List Nat :=
  let d := eColl (stepOp s op)
  if i = gSelf g then [ownTag s d]
  else match findMsg s (memberAddr g i) (cGroup d) 0 op with
    | some m => m.tags
    | none => []

/-- The started gather of the step at index op, with its group. -/
def gatherAt (s : State) (op : Nat) : Option GroupRec :=
  let e := stepOp s op
  if eKind e = 2 ∧ cColl (eColl e) = 1 ∧ mapGet s.step.ops op 0 ≠ 0 then groupOf s (cGroup (eColl e)) else none

/-- The lowest member whose tags fail: two different ones, or one that differs from the recorded one; with its recorded tag and
the first tag received. -/
def failingMember (s : State) (g : GroupRec) (op : Nat) : Option (Nat × Nat × Nat) :=
  let d := eColl (stepOp s op)
  let slot := mapGet s.fab.gather (cGslot d) []
  (List.range (gNmemb g)).findSome? fun i =>
    match memberTags s g op i with
    | [] => none
    | t :: more =>
      let old := if cTagchk d then mapGet slot i t else t
      if !more.isEmpty || old != t then some (i, old, t) else none

/-- A stale gather: EV_STALE_GATHER once, and the step is invalid (R339). -/
def goStale (s : State) (op : Nat) (x : Nat × Nat × Nat) : State :=
  let s := { s with fab := { s.fab with stale := s.fab.stale ++ [op] }, step := { s.step with invalid := true } }
  raise s { code := 0x5004, src := 5, argS := cGslot (eColl (stepOp s op)), a0 := x.1, a1 := x.2.1, a2 := x.2.2 }

/-- The tags of one gather as they now stand: recorded with TAGREC and compared with TAGCHK once every member's has arrived;
`final` compares those that have arrived, since the module holds or restores (R337, R339). -/
def checkGather (final : Bool) (s : State) (op : Nat) : State :=
  match gatherAt s op with
  | none => s
  | some g =>
    let d := eColl (stepOp s op)
    let all := (List.range (gNmemb g)).all fun i => !(memberTags s g op i).isEmpty
    let recorded := mapGet s.fab.gather (cGslot d) []
    let known := !cTagchk d || (List.range (gNmemb g)).all fun i => (mapFind recorded i).isSome
    let s :=
      if s.fab.stale.contains op || !((all && known) || final) then s
      else match failingMember s g op with
        | some x => goStale s op x
        | none => s
    if all && cTagrec d then
      let tags := (List.range (gNmemb g)).map fun i => (i, (memberTags s g op i).headD 0)
      { s with fab := { s.fab with gather := mapSet s.fab.gather (cGslot d) tags } }
    else s

/-- Every started gather of the step checked, in operation order. -/
def checkGathers (final : Bool) (s : State) : State :=
  if s.step.active then (List.range (stepEntries s).length).foldl (checkGather final) s else s

/-- Gather state, messages and votes of a step that is given up, and stage queue counts, as after a restore (R337, R342). -/
def clearMessages (s : State) : State :=
  { s with fab := { s.fab with
      rx := [], gather := [], held := [], stale := [], votes := [], merges := [],
      queues := s.fab.queues.map fun q => (q.1, { q.2 with begun := 0, received := 0, released := 0, readOut := [], filling := [] }) } }

/-! ### The vote (R278, R335) -/

/-- The collective of the step that carries the vote. -/
def voteOp (s : State) : Option Nat :=
  (List.range (stepEntries s).length).find? fun i => eKind (stepOp s i) == 2 && cVote (eColl (stepOp s i))

/-- The module's own bit: as it was sent where a collective carries the vote (R278, R335). -/
def ownVote (s : State) : Bool :=
  match mapFind s.fab.votes (ownAddr s) with
  | some v => v
  | none => s.step.causes == 0

/-- The vote's result, once every bit has arrived (R335). -/
def voteResult (s : State) : Option Bool :=
  match voteOp s with
  | none => some (ownVote s)
  | some i =>
    match groupOf s (cGroup (eColl (stepOp s i))) with
    | none => none
    | some g =>
      let bits := ((List.range (gNmemb g)).map (memberAddr g)).map (mapFind s.fab.votes)
      if bits.all (·.isSome) then some (bits.all fun b => b == some true) else none

end Sys2Proof.Machine
end

