-- ==== Sys2Proof/Machine/Keys.lean ====
section
/-! DEFINITION. The key table: equal keys and equal ranks, and what a restore does about them (R299, R301, R305). -/

namespace Sys2Proof.Machine

/-- A stream as refusals and events name it (R426). -/
def streamArg (unit cls : Nat) (isOver : Bool) : Nat := unit + cls * 2 ^ 16 + bit isOver * 2 ^ 31

/-- The unit number belongs to a draw unit (R290). -/
def drawUnit (u : Nat) : Bool :=
  decide (u < 0xA000) || (decide (0xA000 ≤ u) && decide (u < 0xA040)) || (decide (0xA100 ≤ u) && decide (u < 0xA200))

/-- Two streams with equal keys, where the overrides `ovr` are in force (R299): two overrides, or an override and a derived key. -/
def keyClash (s : State) (ovr : List (Nat × BitVec 128)) : Option (Nat × Nat) :=
  ovr.findSome? fun e =>
    let k := e.2
    let u := fld k 111 96
    let c := fld k 89 88
    match ovr.find? fun x => x.1 != e.1 && x.2 == k with
    | some x => some (streamArg (min e.1 x.1) 3 true, streamArg (max e.1 x.1) 3 true)
    | none =>
      if drawUnit u && k.toNat == streamKey s.job.seed.toNat s.job.rank.toNat c u && !(c == 3 && (mapFind ovr u).isSome) then
        some (streamArg e.1 3 true, streamArg u c false)
      else none

/-- Another member of a VALID group that holds rank r: its fabric address (R299, log 81). -/
def rankClash (s : State) (r : Nat) : Option Nat :=
  (validGroups s).findSome? fun e =>
    ((List.range (gNmemb e.2)).find? fun i => i != gSelf e.2 && memberRank e.2 i == r).map (memberAddr e.2)

/-- A member of a group whose rank an earlier member holds. -/
def doubleRank (g : GroupRec) : Option Nat :=
  (List.range (gNmemb g)).find? fun i => (List.range i).any fun j => memberRank g j == memberRank g i

/-- Overrides loaded by a restore that collide are dropped, each with its event (R301). -/
def dropKeys (fuel : Nat) (s : State) : State × Bool :=
  match fuel with
  | 0 => (s, false)
  | fuel + 1 =>
    match keyClash s s.job.overrides with
    | none => (s, false)
    | some (a, b) =>
      let s := { s with job := { s.job with overrides := mapErase s.job.overrides (a % 2 ^ 16) } }
      let s := raise s { code := 0x1007, src := 0, argS := 0, a0 := a, a1 := b }
      ((dropKeys fuel s).1, true)

/-- Group records loaded by a restore in which two members hold one rank, or another member the module's own, give way to those held
before, each with its event (R299, R301, R305). -/
def dropGroups (s : State) (old : List (Nat × GroupRec)) : State × Bool :=
  (validGroups s).foldl (fun (acc : State × Bool) e =>
    let own := (List.range (gNmemb e.2)).find? fun i => i != gSelf e.2 && memberRank e.2 i == s.job.rank.toNat
    match (doubleRank e.2).or own with
    | none => acc
    | some i =>
      let gs := match mapFind old e.1 with
        | some g => mapSet acc.1.fab.groups e.1 g
        | none => mapErase acc.1.fab.groups e.1
      let s := { acc.1 with fab := { acc.1.fab with groups := gs } }
      (raise s { code := 0x1007, src := 0, argS := 1, a0 := e.1, a1 := i }, true)) (s, false)

/-- The key table after a restore: what collides is taken back; the flag says that something did. -/
def checkKeys (s : State) (old : List (Nat × GroupRec)) : State × Bool :=
  let (s, a) := dropKeys 257 s
  let (s, b) := dropGroups s old
  (s, a || b)

end Sys2Proof.Machine
end

