-- ==== Sys2Proof/Machine/Scrivener.lean ====
section
/-! DEFINITION. Job states, holding and the barrier, route entries and the end of a RESTORE, the Scrivener's shipments, and local
restores (R317, R343, R356 to R385, R400, R535). -/

namespace Sys2Proof.Machine

/-! ### Barrier frames (R343, R360, R361) -/

/-- Barrier frame TAG (R360). -/
def barrierTag (secured invalid lost replay holding : Bool) (member : Nat) : BitVec 32 :=
  packRec 32 [(0, 0, bit secured), (1, 1, bit invalid), (2, 2, bit lost), (3, 3, bit replay), (4, 4, bit holding),
    (31, 16, member)]

/-- The job's barrier group, where it is VALID. -/
def barrierGroup (s : State) : Option GroupRec := groupOf s s.job.barrier

/-- The module's own latest barrier frame goes to every other member (R361). -/
def resendBarrier (s : State) : State :=
  match s.fab.ownBarrier, barrierGroup s with
  | some (off, tag), some g =>
    let args : FrameArgs :=
      { type := 2, dest := 0, group := s.job.barrier, gen := (gGen g).toNat, tag := tag.toNat, op := 0xFFFFFFFF, offset := off }
    (otherMembers g).foldl (fun s a => sendFrame s { args with dest := a }) s
  | _, _ => s

/-- A new barrier frame for step t is sent to every other member (R343, R361). -/
def sendBarrier (s : State) (t : Nat) (tag : BitVec 32) : State :=
  resendBarrier { s with fab := { s.fab with ownBarrier := some (t % 2 ^ 32, tag) } }

/-! ### SEAL frames (R359) -/

/-- OP of a SEAL frame. -/
def sealOp (kind item : Nat) : Nat := kind * 2 ^ 28 + item % 2 ^ 28

/-- A SEAL frame with no payload. -/
def sendSeal (s : State) (dest kind item gen offset : Nat) : State :=
  sendFrame s { type := 3, dest := dest, tag := gen, op := sealOp kind item, offset := offset }

/-- The frames of one item: lines cut at offsets that are multiples of 64, marks in PMAP (R312, R359). -/
def sendItem (s : State) (dest kind item gen : Nat) (lines : List (Line × Bool)) : State :=
  let n := lines.length
  (cut 64 (ceilDiv n 64) lines).zipIdx.foldl (fun s p =>
    let (part, i) := p
    let pmap := ((List.range part.length).map fun j => if (part.getD j (0, false)).2 then 2 ^ j else 0).sum
    let args : FrameArgs :=
      { type := 3, last := decide (n ≤ 64 * i + 64), dest := dest, tag := gen, op := sealOp kind item, offset := 64 * i,
        pmap := pmap, lines := part.map (·.1) }
    sendFrame s args) s

/-- Bytes as lines. -/
def linesOf (bs : List Byte) : List Line :=
  (cut 64 (ceilDiv bs.length 64) bs).map fun l => BitVec.ofNat 512 (natOfBytes l)

/-- A record or journal in 2 MiB chunks. -/
def chunksOf (bs : List Byte) : List (List Byte) := cut 0x200000 (pagesOf bs.length) bs

/-- The lines of a page read from its place, with the lines that hold a bad word (R357). -/
def pageLines (s : State) (v : Nat) : State × List (Line × Bool) :=
  let r := (List.range 32768).foldl (fun (acc : State × List (Line × Bool)) i =>
    let (s', bs) := loadSpan acc.1 (v * 2 ^ 21 + 64 * i) 64
    (s', (BitVec.ofNat 512 (natOfBytes (bs.map (·.1))), bs.any fun b => b.2 != 0) :: acc.2)) (s, [])
  (r.1, r.2.reverse)

/-! ### Route entries, and the end of a RESTORE (R317, R400, R535) -/

/-- A route entry uses a port above 23. -/
def routeBad (e : Nat) : Bool :=
  (List.range 4).any fun k => match routeSlot (BitVec.ofNat 64 e) k with | some (p, _) => decide (23 < p) | none => false

/-- The entries of a ROUTE_WRITE are checked and written (R535). -/
def writeRoutes : Command := fun s r =>
  let p := r.payload
  let (first, n) := (leAt p 0 2, leAt p 4 4)
  if n = 0 ∨ 65536 < n then (s, refuse REFUSE_ROUTE 535 1 0)
  else if 65535 < first + n then (s, refuse REFUSE_ROUTE 535 2 0)
  else match fetchBytes s (leAt p 8 8) (8 * n) with
    | (s, none) => (s, status DMA_FAULT)
    | (s, some bs) =>
      let es : List Nat := (List.range n).map fun i => leAt bs (8 * i) 8 &&& 0xFF3FFF3FFF3FFF3F
      match (List.range n).find? fun i => routeBad (es.getD i 0) with
      | some i => (s, refuse REFUSE_ROUTE 535 3 i)
      | none =>
        let rs := (List.range n).foldl (fun (m : List (Nat × BitVec 64)) i =>
          sparseSet 0 m (first + i) (BitVec.ofNat 64 (es.getD i 0))) s.fab.routes
        (rechoose { s with fab := { s.fab with routes := rs } }, done [])

/-- A RESTORE command is in progress. -/
def restoreRuns (s : State) : Bool := (List.range 4).any fun m => (boxAt s m).inflight == some .restore

/-- A ROUTE_WRITE that waited for a RESTORE runs once that has ended (R400). -/
def resumeRoutes (s : State) : State :=
  (List.range 4).foldl (fun s m =>
    if (boxAt s m).inflight == some .routes then
      let r := (requestOf s m).1
      let (s, rep) := writeRoutes s r
      finishCommand s r rep
    else s) s

/-- The RESTORE of mailbox m ends with a reply, and what waited for it runs (R400). -/
def endRestore (s : State) (m : Nat) (rep : Reply) : State := resumeRoutes (finishCommand s (requestOf s m).1 rep)

/-! ### Holding (R371 to R374) -/

/-- A boundary that has begun and does not complete has used up the commands due at it: what a seal holds of them the restore undoes;
the others take effect at the next one (R401). -/
def spendDue (s : State) : State :=
  let n := s.assay.dueCount
  let kept := (s.job.due.take n).filter fun c =>
    match c with
    | .opSet .. => true
    | .powerCap .. => true
    | .optset .. => true
    | _ => false
  { s with job := { s.job with due := kept ++ s.job.due.drop n }, assay := { s.assay with dueCount := 0 } }

/-- A vote already known to be false in a step with a stale gather raises its event, however the step ends (R339, R345). -/
def noteFalseVote (s : State) : State :=
  if s.step.active && s.step.phase == 0 && !s.fab.stale.isEmpty && !s.step.skipped && voteResult s == some false then
    let s := { s with job := { s.job with update := skipUpdate s.job.update }, step := { s.step with skipped := true } }
    raise s { code := 0x1004, src := 0, argS := s.step.causes, a0 := fld s.job.update 7 0, a1 := juSkips s.job.update }
  else s

/-- The step is over without a seal: the engines are cleared with the elements in the buffers (DESIGN CHOICE, log 86), and a memory unit
may raise its event anew (R252). -/
def dropStep (s : State) : State :=
  { s with step := { s.step with active := false, abandoned := true }, mem := { s.mem with ueRaised := [] },
           eng := { EngSt.none with lacc := s.eng.lacc, kept := s.eng.kept } }

/-- The step in progress is abandoned: no further unit is taken and nothing of it is sealed; a mill phase that has
started runs to its end, and a seal that has begun goes on (R372). -/
def abandonStep (s : State) : State :=
  let s := spendDue (noteFalseVote (checkGathers true s))
  if !s.step.active || s.step.phase == 3 then s
  else if s.step.phase == 1 then { s with step := { s.step with abandoned := true } }
  else dropStep { s with step := { s.step with phase := 0 } }

/-- The RESTORE that a mailbox still runs for the job ends with ABORTED (R400, R424). -/
def abortInFlight (s : State) : State :=
  (List.range 4).foldl (fun s m =>
    match (boxAt s m).inflight with
    | some .restore => finishCommand s (requestOf s m).1 (status ABORTED)
    | _ => s) { s with restore := none }

/-- Entry to HOLD from RUNNING or RESTORING (R371, R372, log 20): waiting dispatches are discarded, and for any cause but
HOST_LOST (3) the step in progress is abandoned. A cause already held stands (R390). -/
def enterHold (s : State) (cause : Nat) : State :=
  if s.job.state ≠ 2 ∧ s.job.state ≠ 4 then s
  else
    let s := if s.job.state = 4 then resumeRoutes (abortInFlight s) else s
    let s := { s with job := { s.job with state := 3, cause := cause, dispatches := [] } }
    let s := if cause = 3 then s else abandonStep s
    raise s { code := 0x1006, src := 0, argS := cause }

/-- A module is declared lost: EV_PEER_LOST, HOLD with cause PEER, and LOST frames to every other member (R373). -/
def peerLost (s : State) (lost : Nat) : State :=
  let s := raise s { code := 0x6004, src := 7, argS := lost, a0 := ownAddr s }
  let s := enterHold s 1
  sendBarrier s s.step.number.toNat (barrierTag false false true false s.job.holding lost)

/-- The step in progress still needs host data: a waybill base or a vector or collective address of one of its
operations that have not completed lies in the host region (R374). -/
def needsHost (s : State) : Bool :=
  s.step.active && s.step.phase != 3 &&
    (match mapFind s.job.plans s.step.plan with
     | none => false
     | some p => (List.range p.entries.length).any fun i =>
        mapGet s.step.ops i 0 != 2 &&
          (let e := p.entries.getD i 0
           let addrs := match fld e 3 0 with
             | 0 => (List.range 4).flatMap fun k => (List.range 4).map fun b => fld e (768 + 320 * k + 64 * b + 111) (768 + 320 * k + 64 * b + 64)
             | 1 => [fld e 303 256, fld e 367 320, fld e 431 384, fld e 495 448]
             | _ => [fld e 247 200, fld e 295 248]
           addrs.any inHost))

/-! ### Sealing a step (R356 to R359) -/

/-- Every protected page's entry takes WP = 1 and SEALGEN = gen, and is stamped with that generation, which is also that of the writes of
the step or restore in progress (R247, R348, R357 item 1, R380). -/
def protectPages (s : State) (gen : Nat) : State :=
  (protectedPages s).foldl (fun s v =>
    match entryAddr (v.1 * 2 ^ 21) with
    | some ea =>
      let (s, e) := lookupEntry s ea
      writeEntryAs s ea (natSetFld (natSetFld e 1 1 1) 63 32 gen) (gen % 64)
    | none => s) s

/-- The journal of the dirty rows, in increasing address: entries of a 16-byte header and the row's records, in
units of 2 MiB; the flag names a page with a bad word (R358). -/
def journalChunks (s : State) (rows : List (Nat × Nat)) : State × List (List Byte) × Option Nat :=
  rows.foldl (fun acc r =>
    let (s, chunks, bad) := acc
    let (s, bs) := loadSpan s r.1 r.2
    let e := bytesOfNat 16 (packRec 128 [(47, 0, r.1), (79, 48, r.2 / 128)]).toNat ++ bs.map (·.1)
    let bad := if bad.isNone && bs.any (fun b => b.2 != 0) then some (r.1 / 2 ^ 21) else bad
    match chunks.getLast? with
    | some c =>
      if c.length + e.length ≤ 0x200000 then (s, chunks.dropLast ++ [c ++ e], bad) else (s, chunks ++ [e], bad)
    | none => (s, [e], bad)) (s, [], none)

/-- Rows in increasing address. -/
def sortRows (rows : List (Nat × Nat)) : List (Nat × Nat) := rows.foldl (fun acc r => mapSet acc r.1 r.2) []

/-- Pages and rows of the dirty set, and the record, shipped to the buddy as generation gen, then the marker; rows in a page shipped
whole are not journaled (R357, R364). The flag names a page that holds a bad word: then nothing is shipped (R377). -/
def shipGeneration (s : State) (gen : Nat) (pages : List Nat) (rows : List (Nat × Nat)) (rec_ : List Byte) :
    State × Option Nat :=
  let buddy := sdBuddy s.job.sealDesc
  let (s, items, bad) := pages.foldl (fun acc v =>
    let (s, items, bad) := acc
    let (s, ls) := pageLines s v
    (s, items ++ [(0, v, ls)], if bad.isNone && ls.any (·.2) then some v else bad)) (s, ([] : List (Nat × Nat × List (Line × Bool))), none)
  let parts := (rows.flatMap fun r => pageParts r.1 r.2).filter fun r => !pages.contains (r.1 / 2 ^ 21)
  let (s, chunks, badRow) := journalChunks s (sortRows parts)
  let plain := fun (bs : List Byte) => (linesOf bs).map fun l => (l, false)
  let items := items ++ (List.range chunks.length).map (fun i => (1, i, plain (chunks.getD i [])))
  let recs := chunksOf rec_
  let items := items ++ (List.range recs.length).map (fun i => (2, i, plain (recs.getD i [])))
  match bad.or badRow with
  | some v => (s, some v)
  | none =>
    let s := items.foldl (fun s it => sendItem s buddy it.1 it.2.1 gen it.2.2) s
    let s := sendSeal s buddy 3 0 gen items.length
    ({ s with sealer := { s.sealer with phase := 2, gen := BitVec.ofNat 32 gen,
                                        unacked := items.map fun it => (it.1, it.2.1) } }, none)

/-- A generation's record kept in staging. -/
def keepRecord (s : State) (gen : Nat) (rec_ : List Byte) : State :=
  { s with sealer := { s.sealer with records := mapSet s.sealer.records gen rec_ } }

/-- The draw state header of the seal being made, kept for STATE_READ (R303, R407). -/
def keepHead (s : State) (t gen cursor : Nat) : State := { s with job := { s.job with drawHead := drawHeader s t gen cursor } }

/-- The initial seal: every protected page under GEN0 (R346, R356, R357), with the barrier that follows it. -/
def initialSeal (s : State) : State :=
  let t := s.job.t0.toNat
  let gen := (gen0 s).toNat
  let s := protectPages s gen
  let rec_ := buildRecord s t s.job.cursor.toNat
  let s := keepRecord (keepHead s t gen s.job.cursor.toNat) gen rec_
  let s := { s with sealer := { s.sealer with dirtyPages := [], dirtyRows := [] },
                    step := { s.step with number := BitVec.ofNat 48 t, active := false, barrier := 1 } }
  let (s, bad) := shipGeneration s gen ((protectedPages s).map (·.1)) [] rec_
  match bad with
  | some v => raise s { code := 0x6003, src := 7, a0 := gen, a1 := v }
  | none => s

/-! ### Local restore (R379, R380) -/

/-- The record of generation x in staging. -/
def localRecord (s : State) (x : BitVec 32) : Option (List Byte) := mapFind s.sealer.records x.toNat

/-- A page is read: whether it holds a poisoned or uncorrectable word (R246, R380). -/
def pageDamaged (s : State) (v : Nat) : State × Bool :=
  let (s, e) := lookupPage s (v * 2 ^ 21)
  let (s, bad) := readFrame s (pmHome e) (pmFrame e)
  (s, !bad.isEmpty)

/-- The nonzero bytes among those from address a. -/
def cellsOf (a : Nat) (bs : List Byte) : List Host.Cell :=
  (bs.zipIdx a).filterMap fun b => if b.1 = 0 then none else some (b.2, b.1)

/-- The image of a page whose words (number, data, poison, numbers rising) are all written with one tag. -/
def imageOf (tag : Nat) (ws : List (Nat × Nat × Bool)) : PageImage :=
  ⟨ws.flatMap fun w => cellsOf (16 * w.1) (bytesOfNat 16 w.2.1),
   ws.flatMap fun w => cellsOf (2 * w.1) (bytesOfNat 2 (writeMeta w.2.1 tag w.2.2))⟩

/-- The words of a page image, each as its code reads it (R246). -/
def imageWords (im : PageImage) : List WordRead :=
  List.zipWith (fun d m => readWord (natOfBytes d) (natOfBytes m)) (cut 16 131072 (denseCells 2097152 0 im.data []).reverse)
    (cut 2 131072 (denseCells 262144 0 im.metadata []).reverse)

/-- A page's image with every word written anew: its poison kept, its tag that of generation x (R348, R380). -/
def retagImage (im : PageImage) (tag : Nat) : PageImage :=
  imageOf tag ((imageWords im).zipIdx.map fun x => (x.2, x.1.data, badWord x.1))

/-- A page image written in place (R380). -/
def writePage (s : State) (v : Nat) (im : PageImage) : State :=
  let (s, e) := lookupPage s (v * 2 ^ 21)
  if pmValid e then fillFrame s (pmHome e) (pmFrame e) im else s

/-- A staging copy written back: the page, or the row's words only, poison kept (R380). -/
def writeCopy (s : State) (c : StageCopy) (tag : Nat) : State :=
  match c.row with
  | none => writePage s c.page (retagImage c.image tag)
  | some (a, len) =>
    let (s, e) := lookupPage s a
    (List.range (len / 16)).foldl (fun s i =>
      let o := a % 2 ^ 21 + 16 * i
      let r := readWord (natOfBytes (cellsGet c.image.data o 16)) (natOfBytes (cellsGet c.image.metadata (o / 8) 2))
      writeWord s (physOf (a + 16 * i) e) r.data tag (badWord r)) s

/-- The pages that only the buddy can restore: uncopied, or found damaged without a copy as they are read (R246, R380). -/
def wantedPages (s : State) (x : BitVec 32) : State × List Nat :=
  let copied := fun v => s.sealer.copies.any fun c => c.label == x && c.page == v && c.row.isNone
  (((protectedPages s).map (·.1)).filter fun v => !copied v).foldl (fun (acc : State × List Nat) v =>
    if acc.1.sealer.uncopied.contains (v, x.toNat) then (acc.1, acc.2 ++ [v])
    else
      let (t, bad) := pageDamaged acc.1 v
      (t, if bad then acc.2 ++ [v] else acc.2)) (s, [])

/-- Every other member of the barrier group satisfies p of its last barrier frame's OFFSET and TAG. -/
def allMembers (s : State) (p : Nat → Nat → BitVec 32 → Bool) : Bool :=
  match barrierGroup s with
  | none => false
  | some g => (otherMembers g).all fun a =>
      match mapFind s.fab.barrier a with
      | some (off, tag) => p a off tag
      | none => false

/-- The replay barrier can complete: REPLAY for the restored step from every member (R385). -/
def replayReady (s : State) : Bool :=
  s.step.barrier == 2 && (s.job.state == 4 || s.job.state == 2) && s.restore.isNone &&
    (match s.fab.ownBarrier with | some (_, t) => bitOf t 3 | none => false) &&
    allMembers s fun a _ _ => mapFind s.fab.replays a == some (s.ident.jobStep.toNat % 2 ^ 32)

/-- RUNNING once REPLAY has come from every member (R385); the frames that told it are used up. -/
def tryReplay (s : State) : State :=
  if replayReady s then
    { s with job := { s.job with state := 2 }, step := { s.step with barrier := 0 }, fab := { s.fab with replays := [] } }
  else s

/-- Barrier frame for the replay: REPLAY, or HOLDING in its place for a module whose host is lost, which then holds
(R374, R385). -/
def sendReplay (s : State) : State :=
  let t := s.ident.jobStep.toNat
  if s.job.holdDue then
    let s := { s with job := { s.job with holding := true, holdDue := false } }
    sendBarrier (enterHold s 3) t (barrierTag false false false false true 0)
  else sendBarrier s t (barrierTag false false false true s.job.holding 0)

/-- After a restore the replay frame is sent once x is flipped in at the buddy; it may be the last that was wanted (R385). -/
def afterRestore (s : State) : State :=
  if s.restore.isNone && s.step.barrier == 2 && s.sealer.phase == 3 && (s.job.state == 4 || s.job.state == 2) then
    tryReplay (sendReplay s)
  else s

/-- A RESERVE frame for generation gen to the buddy, asking for the pages R351 requires of it (R367). -/
def sendReserve (s : State) (gen : Nat) : State :=
  let need := (protectedPages s).length + 2 * sdDirty s.job.sealDesc + 2 * recPages s
  sendSeal s (sdBuddy s.job.sealDesc) 10 0 gen need

/-- A page of generation x that could not be sent is reported (R368, R380). -/
def raiseUnshipped (x : Nat) (r : State × Option Nat) : State :=
  match r.2 with
  | some v => raise r.1 { code := 0x6003, src := 7, a0 := x, a1 := v }
  | none => r.1

/-- Every protected page and the record of x go to a new buddy under TAG x, after RESERVE (R385). -/
def shipInFull (s : State) (x : Nat) (rec_ : List Byte) : State :=
  let s := sendReserve { s with sealer := { s.sealer with newBuddy := false, reserve := none } } x
  raiseUnshipped x (shipGeneration s x ((protectedPages s).map (·.1)) [] rec_)

/-- After the data is back: WP and SEALGEN, the record's sections, DISCARD to the buddy, EV_RESTORE_DONE, the reply;
a changed buddy then takes x in full, and the module waits for the replay barrier (R380, R381, R385). -/
def finishRestore (s : State) (r : RestoreSt) (rec_ : List Byte) : State :=
  let x := r.target
  let s := protectPages s x.toNat
  let old := s.fab.groups
  let (s, clash) := checkKeys (loadRecord s rec_) old
  let buddy := sdBuddy s.job.sealDesc
  let s := if r.pull then s else sendSeal s buddy 7 0 x.toNat 0
  let recs := if r.pull then [(x.toNat, rec_)] else s.sealer.records.filter fun e => !laterGen (BitVec.ofNat 32 e.1) x
  let shipping := s.sealer.phase == 2 && s.sealer.gen == x
  let sl := { s.sealer with records := recs, uncopied := [], fullRaised := false, dirtyPages := [], dirtyRows := [],
                            copies := [], phase := if shipping then 2 else 3, gen := x, lastSealed := some x,
                            incoming := [], repair := [] }
  let s := { s with restore := none, sealer := sl,
                    step := { StepSt.none with number := s.ident.jobStep, barrier := 2 },
                    job := { s.job with state := 4, lastBegun := s.ident.jobStep, dueHold := 0 } }
  let s := clearMessages s
  let s := raise s { code := 0x6005, src := 7, argS := bit r.pull, a0 := x.toNat }
  let s := match r.mailbox with
    | some m => endRestore s m (done [])
    | none => s
  let s := if clash then enterHold s 5 else s
  afterRestore (if s.sealer.newBuddy then shipInFull s x.toNat rec_ else s)

/-- The buddy is asked for pages of generation x one by one: a PULL frame whose ITEM is the virtual page plus one (R378, R380,
log 59). -/
def fetchPages (s : State) (pages : List Nat) (x : Nat) : State :=
  pages.foldl (fun s v => sendSeal s (sdBuddy s.job.sealDesc) 8 (v + 1) x 0) s

/-- Pages come back from the copies labelled x, then the rows copied before their page was; with none wanted from the buddy the restore
is finished (R364, R380). -/
def restoreLocal (s : State) (r : RestoreSt) (rec_ : List Byte) : State :=
  let x := r.target
  let (s, wanted) := wantedPages s x
  let mine := s.sealer.copies.filter fun c => c.label == x
  let ordered := (mine.filter fun c => c.row.isNone) ++ mine.filter fun c => c.row.isSome
  let s := ordered.foldl (fun s c => writeCopy s c (x.toNat % 64)) s
  if wanted.isEmpty then finishRestore s r rec_
  else fetchPages { s with restore := some { r with wanted := wanted }, job := { s.job with state := 4 } } wanted x.toNat

/-! ### The end of a step (R361, R366, R418, R419) -/

/-- Bits [53:48] of the step report (R419). -/
def reportFlags (st : StepSt) : Nat :=
  bit st.skipped + 2 * bit st.invalid + 4 * bit st.missed + 8 * bit st.calib + 16 * bit st.sampleWait + 32 * bit st.forced

/-- The cause of R344 with the largest total, the lowest code on a tie. -/
def largestCause (idle : List Nat) : Nat :=
  (List.range idle.length).foldl (fun best i => if idle.getD best 0 < idle.getD i 0 then i else best) 0

/-- The step report (R419). -/
def stepReport (s : State) : BitVec 2048 :=
  let st := s.step
  let idle := (List.range 9).map fun c => (64 * c + 319, 64 * c + 256, st.idle.getD c 0)
  packRec 2048 ([(47, 0, st.number.toNat), (53, 48, reportFlags st), (95, 64, (genOf s st.number.toNat).toNat),
    (103, 96, st.plan), (107, 104, if st.missed then largestCause st.idle else 0), (191, 128, st.start),
    (255, 192, st.secured), (1535, 1024, st.ledger.toNat), (1567, 1536, st.faults.length),
    (1599, 1568, st.faultsLost)] ++ idle)

/-- A step ends: its fault log is sorted and stays for reading, and its report joins the last 16 (R227, R419). -/
def endReport (s : State) : State :=
  let s := sortFaults s
  let rs := s.job.reports ++ [stepReport s]
  { s with job := { s.job with reports := rs.drop (rs.length - 16), faults := s.step.faults } }

/-- An invalid step: RESTORING, INVALID frames where it is the module's own, its report, the local restore to the
committed generation, and EV_STEP_REPLAY (R376). -/
def invalidStep (s : State) (received : Bool) : State :=
  if s.job.state != 2 then s
  else
    let x := s.ident.committed
    let s := spendDue (noteFalseVote (checkGathers true s))
    let s := { s with fab := { s.fab with replays := [] } }
    let s := if received then s
      else sendBarrier s s.step.number.toNat (barrierTag false true false false false 0)
    let s := if s.step.active then bump (endReport { s with step := { s.step with invalid := true } }) 0xEBB else s
    let s := dropStep { s with job := { s.job with state := 4, dispatches := [] } }
    match localRecord s x with
    | none => s
    | some rec_ =>
      let r : RestoreSt := ⟨false, s.job.rank, x, BitVec.ofNat 48 (leAt rec_ 16 6), none, [], 2, none⟩
      let s := restoreLocal s r rec_
      raise s { code := 0x1005, src := 7, argS := bit received, a0 := x.toNat }

/-- The seal of step t cannot be made: DISCARD for the generation before, EV_SEAL_FAILED, and the step is invalid
(R377). -/
def sealFailed (s : State) (gen v : Nat) : State :=
  let before := (BitVec.ofNat 32 gen - 1 : BitVec 32).toNat
  let s := sendSeal s (sdBuddy s.job.sealDesc) 7 0 before 0
  let s := raise s { code := 0x6003, src := 7, a0 := gen, a1 := v }
  invalidStep { s with sealer := { s.sealer with phase := 0, unacked := [] } } false

/-- What is released when generation g is committed: copies of the generation before, with what went uncopied, and records two
before (R365, R366). -/
def releaseAfter (s : State) (g : BitVec 32) : State :=
  { s with sealer := { s.sealer with
      uncopied := s.sealer.uncopied.filter fun u => !laterGen g (BitVec.ofNat 32 u.2),
      copies := s.sealer.copies.filter fun c => !laterGen g c.label,
      records := s.sealer.records.filter fun e => !laterGen (g - 1) (BitVec.ofNat 32 e.1) } }

/-! ### The barrier (R343, R360, R361, R385) -/

/-- The barrier of the step can complete: SECURED for it from every member, HOLDING from none (R361). -/
def barrierReady (s : State) : Bool :=
  s.step.barrier == 1 && s.job.state == 2 && s.sealer.phase == 3 &&
    (match s.fab.ownBarrier with | some (_, t) => bitOf t 0 && !bitOf t 4 | none => false) &&
    allMembers s fun a _ tag => !bitOf tag 4 &&
      (match mapFind s.fab.securedOf a with
       | some n => seqLe (BitVec.ofNat 32 s.step.number.toNat) n
       | none => false)

/-- A member gave up the step after this one before the barrier at hand completed here: its latest frame has INVALID for that step, or
REPLAY for this one. The module follows it once its own barrier is complete (R376; DEDUCED, log 46). -/
def nextGivenUp (s : State) : Bool :=
  let t := s.ident.jobStep.toNat
  s.fab.barrier.any fun e =>
    (bitOf e.2.2 1 && e.2.1 == (t + 1) % 2 ^ 32) || (bitOf e.2.2 3 && e.2.1 == t % 2 ^ 32)

/-- The barrier completes: g(t) is committed, COMMIT goes to the buddy, pages to be repaired are fetched, the step's
report and EV_STEP_DONE follow (R361, R366, R378, R418). -/
def barrierComplete (s : State) : State :=
  let g := genOf s s.step.number.toNat
  let ran := s.step.active
  let s := trace s 2 5 s.step.plan g.toNat 0
  let s := { s with ident := { s.ident with committed := g } }
  let s := sendSeal s (sdBuddy s.job.sealDesc) 6 0 g.toNat 0
  let s := releaseAfter s g
  let s := fetchPages { s with mem := { s.mem with ueRaised := [] } } s.sealer.repair g.toNat
  if ran then
    let s := bump (endReport s) 0xEBA
    let flags := reportFlags s.step
    let s := { s with step := { s.step with active := false, barrier := 0 } }
    let s := raise s { code := 0x1001, src := 0, argS := flags, a0 := g.toNat }
    if s.job.dueHold != 0 then enterHold { s with job := { s.job with dueHold := 0 } } s.job.dueHold
    else if nextGivenUp s then invalidStep s true else s
  else
    let s := { s with step := { s.step with barrier := 0 } }
    if nextGivenUp s then invalidStep s true else s

/-- The barrier, if its last condition has come about (R361, R385). -/
def tryBarrier (s : State) : State :=
  if barrierReady s then barrierComplete s
  else tryReplay s

/-- A member's frame (R360, R361, R373, R376): a repeat of its last one changes nothing but what a
barrier still wanted; LOST wins over INVALID. INVALID is for the step in progress, or for the next one where that has not begun. After
REPLAY for a step what the member had secured after that step counts no more (R385). -/
def memberFrame (s : State) (src off : Nat) (tag : BitVec 32) : State :=
  let seen := mapFind s.fab.barrier src == some (off, tag)
  let n := BitVec.ofNat 32 off
  let later := match mapFind s.fab.securedOf src with | some m => seqLe m n | none => true
  let sec := if bitOf tag 3 then (if later then s.fab.securedOf else mapSet s.fab.securedOf src n)
    else if bitOf tag 0 && later then mapSet s.fab.securedOf src n else s.fab.securedOf
  let reps := if bitOf tag 3 then mapSet s.fab.replays src off else s.fab.replays
  let s := { s with fab := { s.fab with barrier := mapSet s.fab.barrier src (off, tag), securedOf := sec, replays := reps } }
  if seen then tryBarrier s
  else if bitOf tag 2 then
    enterHold (raise s { code := 0x6004, src := 7, argS := fld tag 31 16, a0 := src }) 1
  else if bitOf tag 1 && (if s.step.active then off == s.step.number.toNat % 2 ^ 32
      else s.step.barrier == 0 && off == (s.ident.jobStep + 1).toNat % 2 ^ 32) then invalidStep s true
  else tryBarrier s

/-- A barrier frame arrives (R325, R360). -/
def barrierArrives (s : State) (f : Frame) : State :=
  match (if jobExists s && fGroup f == s.job.barrier then barrierGroup s else none) with
  | none => s
  | some g =>
    if (gGen g).toNat ≠ fGen f then bump s 0xEC2
    else if (memberIndex g (fSrc f)).isNone then s
    else memberFrame s (fSrc f) (fOffset f) (BitVec.ofNat 32 (fTag f))

/-- The module resends its latest barrier frame (R361): it waits at a barrier or holds, or the frame is a REPLAY that a member not
yet restored has dropped as stale (R325, R384, log 58). -/
def waitsAtBarrier (s : State) : Bool :=
  jobExists s && (s.step.barrier != 0 || s.job.state == 3 ||
    (s.job.state == 2 && (match s.fab.ownBarrier with | some (_, t) => bitOf t 3 | none => false)))

/-! ### SECURED, the deadline, the host (R357, R374, R418) -/

/-- The deadline of the step's plan against its step time (R418). -/
def stepTimed (s : State) : State :=
  let time := s.step.secured - s.step.start
  let p := mapFind s.job.plans s.step.plan
  let dl := match p with | some p => p.deadline | none => 0
  if dl = 0 ∨ time ≤ dl then s
  else
    let s := bump { s with step := { s.step with missed := true } } 0xEBC
    raise s { code := 0x1002, src := 0, argS := largestCause s.step.idle, a0 := time / 1000, a1 := dl / 1000,
              a2 := reportFlags s.step }

/-- The seal of generation g is secured: EV_SEAL_SECURED, RUNNING after the initial seal, the barrier frame with
SECURED, and HOLD where the host was lost (R357, R361, R371, R374). -/
def sealSecured (s : State) (g : BitVec 32) : State :=
  let s := { s with sealer := { s.sealer with phase := 3, lastSealed := some g },
                    fab := { s.fab with rx := s.fab.rx.filter fun m => !m.used } }
  let s := trace s 2 4 s.step.plan g.toNat 0
  let s := raise s { code := 0x6001, src := 7, a0 := g.toNat }
  if s.step.barrier = 2 then tryBarrier (afterRestore s)
  else
    let s := if s.step.active then stepTimed { s with step := { s.step with secured := timebase s } } else s
    let s := if s.job.state = 1 then { s with job := { s.job with state := 2 } } else s
    let t := s.step.number.toNat
    if s.job.state = 3 ∧ s.job.cause ≠ 3 then s
    else if s.job.holdDue then
      let s := { s with job := { s.job with holding := true, holdDue := false } }
      enterHold (sendBarrier s t (barrierTag true false false false true 0)) 3
    else tryBarrier (sendBarrier s t (barrierTag true false false false s.job.holding 0))

/-- The module's barrier frame with HOLDING set or cleared, flags otherwise as last sent (R374). -/
def reflagHolding (s : State) (on : Bool) : State :=
  let s := { s with job := { s.job with holding := on } }
  match s.fab.ownBarrier with
  | some (off, tag) => sendBarrier s off (setFld tag 4 4 (bit on))
  | none => s

/-- The host is lost (R374): the step completes first where it can; where it needs host data it is invalid. -/
def hostLost (s : State) (kind : Nat) : State :=
  let s := raise s { code := 4, src := 0, argS := kind }
  let hold := fun (s : State) => enterHold (reflagHolding s true) 3
  match s.job.state with
  | 2 =>
    if !s.step.active then hold s
    else if needsHost s then invalidStep { s with job := { s.job with holdDue := true } } false
    else if s.step.phase = 3 ∧ s.sealer.phase = 3 then hold s
    else { s with job := { s.job with holdDue := true } }
  | 3 => if s.job.holding then s else reflagHolding s true
  | 4 => if s.restore.isNone && s.sealer.phase == 3 then hold s else { s with job := { s.job with holdDue := true } }
  | _ => s

end Sys2Proof.Machine
end

