-- ==== Sys2Proof/Machine/Exchange.lean ====
section
/-! DEFINITION. Messages of the collective engine, and the all-reduce of whole units in two phases that column partials, merge
records and unsteered amax records travel by (R312, R326, R333, R336, R533, R537). -/

namespace Sys2Proof.Machine

/-! ### Messages (R312, R321, R537) -/

/-- OP of a frame: phase and number. -/
def phaseOp (phase op : Nat) : Nat := phase * 2 ^ 28 + op % 2 ^ 28

/-- Marked lines cut into frames of up to 64: offset, LAST, PMAP and payload of each. -/
def frameParts (lines : List (Line × Bool)) : List (Nat × Bool × Nat × List Line) :=
  (cut 64 (ceilDiv lines.length 64) lines).zipIdx.map fun p =>
    let (part, i) := p
    let pmap := ((List.range part.length).map fun j => if (part.getD j (0, false)).2 then 2 ^ j else 0).sum
    (64 * i, decide (lines.length ≤ 64 * i + 64), pmap, part.map (·.1))

/-- A message of marked lines to one member, in COLL frames of up to 64 lines; one with no line sends nothing. -/
def sendMessage (s : State) (g : Nat) (r : GroupRec) (dest phase op tag : Nat) (lines : List (Line × Bool)) : State :=
  (frameParts lines).foldl (fun s p =>
    sendFrame s { type := 1, last := p.2.1, dest := dest, group := g, gen := (gGen r).toNat, tag := tag,
                  op := phaseOp phase op, offset := p.1, pmap := p.2.2.1, lines := p.2.2.2 }) s

/-- The bytes of a message that has arrived whole. -/
def msgBytes (m : RxMsg) : List Byte := (m.lines.map fun l => bytesOfNat 64 l.2.toNat).flatten

/-- The whole message of a source, if every line has arrived. -/
def wholeMsg (s : State) (src group phase op : Nat) : Option RxMsg :=
  match findMsg s src group phase op with
  | some m => if msgDone m then some m else none
  | none => none

/-- The messages of a group, phase and operation have been taken. -/
def takeMsgs (s : State) (group phase op : Nat) : State :=
  { s with fab := { s.fab with rx := s.fab.rx.map fun m =>
      if m.group = group ∧ m.phase = phase ∧ m.op = op then { m with used := true } else m } }

/-! ### All-reduce of units (R333, R336, R537) -/

/-- First unit and number of units of chunk i among u units and n members: ⌈u/n⌉ units a chunk, the last ones shorter or empty. -/
def unitChunk (u n i : Nat) : Nat × Nat :=
  let c := ceilDiv u n
  (min u (i * c), min u (i * c + c) - min u (i * c))

/-- The bytes of some units as the lines of a message, the last one padded with zeros. -/
def unitLines (us : List (List Byte)) : List (Line × Bool) := (linesOf us.flatten).map fun l => (l, false)

/-- Units of given sizes cut from the bytes of a message. -/
def cutUnits (bs : List Byte) : List Nat → List (List Byte)
  | [] => []
  | n :: ns => fitBytes bs n :: cutUnits (bs.drop n) ns

/-- Units of chunk i of an exchange. -/
def chunkUnits (us : List (List Byte)) (n i : Nat) : List (List Byte) :=
  let (a, k) := unitChunk us.length n i
  (us.drop a).take k

/-- Is it the exchange of that group, phase and operation? -/
def isXchg (x y : Xchg) : Bool := x.group == y.group && x.phase == y.phase && x.op == y.op

/-- An exchange stored in place of the one before it. -/
def putXchg (s : State) (x : Xchg) : State :=
  { s with fab := { s.fab with merges := (s.fab.merges.filter fun y => !isXchg x y) ++ [x] } }

/-- Chunk i of `us` goes to member i as phase p, or one chunk to every other member. -/
def sendUnits (s : State) (r : GroupRec) (x : Xchg) (p : Nat) (chunk : Nat → List (List Byte)) : State :=
  (List.range (gNmemb r)).foldl (fun s i =>
    if i = gSelf r then s else sendMessage s x.group r (memberAddr r i) p x.op 0 (unitLines (chunk i))) s

/-- An exchange begins: each member is sent the units that it owns. -/
def startXchg (s : State) (r : GroupRec) (group phase op : Nat) (units : List (List Byte)) : State :=
  let x : Xchg := ⟨group, phase, op, units, none, none⟩
  putXchg (sendUnits s r x phase fun i => chunkUnits units (gNmemb r) i) x

/-- The contributions of every other member to the module's own chunk, in member order, once all have arrived. -/
def contributions (s : State) (r : GroupRec) (x : Xchg) : Option (List (List (List Byte))) :=
  let mine := chunkUnits x.units (gNmemb r) (gSelf r)
  if mine.isEmpty then some []
  else
    let got := (otherMembers r).map fun a => (wholeMsg s a x.group x.phase x.op).map fun m => cutUnits (msgBytes m) (mine.map List.length)
    if got.all (·.isSome) then some (got.filterMap id) else none

/-- The module's own chunk reduced and sent on, where every contribution has arrived; `merge u a b` merges unit u. -/
def reduceXchg (merge : Nat → List Byte → List Byte → List Byte) (s : State) (r : GroupRec) (x : Xchg) : State × Xchg :=
  match x.own, contributions s r x with
  | none, some cs =>
    let n := gNmemb r
    let (a, _) := unitChunk x.units.length n (gSelf r)
    let mine := chunkUnits x.units n (gSelf r)
    let own := (List.range mine.length).map fun j =>
      cs.foldl (fun (acc : List Byte) c => merge (a + j) acc (c.getD j [])) (mine.getD j [])
    let x := { x with own := some own }
    (sendUnits (takeMsgs s x.group x.phase x.op) r x (x.phase + 1) fun _ => own, x)
  | _, _ => (s, x)

/-- Every chunk's reduced units, once those of every other owner have arrived. -/
def gatherXchg (s : State) (r : GroupRec) (x : Xchg) : Option (List (List Byte)) :=
  let n := gNmemb r
  match x.own with
  | none => none
  | some own =>
    let parts := (List.range n).map fun i =>
      let us := chunkUnits x.units n i
      if i = gSelf r then some own
      else if us.isEmpty then some []
      else (wholeMsg s (memberAddr r i) x.group (x.phase + 1) x.op).map fun m => cutUnits (msgBytes m) (us.map List.length)
    if parts.all (·.isSome) then some (parts.filterMap id).flatten else none

/-- An exchange goes as far as what has arrived allows. -/
def advanceXchg (merge : Nat → List Byte → List Byte → List Byte) (s : State) (r : GroupRec) (x : Xchg) : State :=
  if x.result.isSome then s
  else
    let (s, x) := reduceXchg merge s r x
    match gatherXchg s r x with
    | some us => putXchg (takeMsgs s x.group (x.phase + 1) x.op) { x with result := some us }
    | none => putXchg s x

/-- The exchange of a group, phase and operation. -/
def findXchg (s : State) (group phase op : Nat) : Option Xchg := s.fab.merges.find? fun x => isXchg x ⟨group, phase, op, [], none, none⟩

/-- The reduced units of an exchange that is complete. -/
def xchgResult (s : State) (group phase op : Nat) : Option (List (List Byte)) := (findXchg s group phase op).bind (·.result)

/-! ### How units merge (R333, R336, R533) -/

/-- Little-endian integers of `size` bytes, one after another, combined pairwise. -/
def zipInts (size : Nat) (f : Nat → Nat → Nat) (a b : List Byte) : List Byte :=
  ((List.range (a.length / size)).map fun i => bytesOfNat size (f (leAt a (size * i) size) (leAt b (size * i) size))).flatten

/-- The sum of two square accumulators (R333). -/
def sumPartial (a b : List Byte) : List Byte := bytesOfNat 80 (natOfBytes a + natOfBytes b)

/-- Agreement parts of 128 bytes: the AND copies and the OR copies (R533). -/
def mergeAgreement (a b : List Byte) : List Byte :=
  zipInts 1 (· &&& ·) (fitBytes a 64) (fitBytes b 64) ++ zipInts 1 (· ||| ·) (slice a 64 64) (slice b 64 64)

/-- Two unsteered amax records (R533). -/
def mergeAmax (a b : List Byte) : List Byte := mergeAgreement a b ++ zipInts 2 max (a.drop 128) (b.drop 128)

/-- Two squares parts: accumulator and count of the output, then of the gradient (R533). -/
def mergeSquares (a b : List Byte) : List Byte :=
  let sum := fun (o n : Nat) => bytesOfNat n (leAt a o n + leAt b o n)
  sum 0 80 ++ sum 80 8 ++ sum 88 80 ++ sum 168 8 ++ slice a 176 (a.length - 176)

/-- Two merge records of a layer whose amax and counts parts have these sizes (R533). -/
def mergeRecord (amax counts : Nat) (a b : List Byte) : List Byte :=
  let part := fun (x : List Byte) (o n : Nat) => slice x o n
  mergeAgreement a b ++ zipInts 2 max (part a 128 amax) (part b 128 amax) ++
    zipInts 8 (· + ·) (part a (128 + amax) counts) (part b (128 + amax) counts) ++
    mergeSquares (a.drop (128 + amax + counts)) (b.drop (128 + amax + counts))

end Sys2Proof.Machine
end

