-- ==== Sys2Proof/Machine/Norms.lean ====
section
/-! DEFINITION. The norm watch: a layer's norm, its running statistics, and the jump test on the merged and on the local
norm (R155 to R159). -/

namespace Sys2Proof.Machine

/-- √(S/n) rounded once to bfloat16 (R155), for n > 0. -/
def rmsCode (squares : Dy) (n : Nat) : Nat :=
  if dyIsZero squares then 0
  else (finishMag .bf16 false (roundMag .bf16 (dyNat 1) rStrict .nearest
    fun d => dyCmp squares (dyMul (dyMul d d) (dyNat n)))).code

/-- The stored statistics of one norm: the last norm, μ, var, WARM and the jump run (R168). -/
structure NormState where
  rms  : Nat
  mean : Nat
  var  : Nat
  warm : Nat
  jrun : Nat
  deriving DecidableEq, Repr

/-- The norm fields of a layer state record: those of the output, or of the watched gradient. -/
def normOf (r : BitVec 2048) (grad : Bool) : NormState :=
  if grad then ⟨fld r 191 176, fld r 207 192, fld r 223 208, fld r 127 112, fld r 86 84⟩
  else ⟨fld r 143 128, fld r 159 144, fld r 175 160, fld r 111 96, fld r 83 81⟩

/-- The record with the norm fields replaced. -/
def setNorm (r : BitVec 2048) (grad : Bool) (x : NormState) : BitVec 2048 :=
  let put := fun (r : BitVec 2048) (f : Nat × Nat × Nat) => setFld r f.1 f.2.1 f.2.2
  (if grad then [(191, 176, x.rms), (207, 192, x.mean), (223, 208, x.var), (127, 112, x.warm), (86, 84, x.jrun)]
   else [(143, 128, x.rms), (159, 144, x.mean), (175, 160, x.var), (111, 96, x.warm), (83, 81, x.jrun)]).foldl put r

/-- The jump test (R157): d² > K² × max(var, (μ/256)²), exactly; it applies once WARM is 16. -/
def normJumps (k : Nat) (x : NormState) (r : Nat) : Bool :=
  let v := fun (c : Nat) => decode .bf16 false c
  if x.warm < 16 then false
  else if (v r).cls != .finite || (v x.mean).cls != .finite || (v x.var).cls != .finite then
    (v x.mean).cls == .finite && (v x.var).cls == .finite
  else
    let d := dySub (v r).v (v x.mean).v
    let m : Dy := dyMul (v x.mean).v (dyPow2 (-8))
    dyLt (dyMul (dyNat (k * k)) (dyMax (v x.var).v (dyMul m m))) (dyMul d d)

/-- The running statistics with one norm (R156), each operation rounded in binary32 and stored to bfloat16. -/
def normUpdate (shift : Nat) (x : NormState) (r : Nat) : NormState :=
  let rf := r * 65536
  if x.warm = 0 then { x with rms := r, mean := r, var := 0, warm := 1 }
  else
    let alpha := f32OfDy (dyPow2 (-(shift : Int)))
    let mu := x.mean * 65536
    let va := x.var * 65536
    let d := f32Sub rf mu
    let mu' := f32Add mu (f32Mul alpha d)
    let va' := f32Mul (f32Sub 0x3F800000 alpha) (f32Add va (f32Mul (f32Mul alpha d) d))
    { x with rms := r, mean := bf16OfF32 mu', var := bf16OfF32 va', warm := min (x.warm + 1) 65535 }

/-- The boundary's treatment of one norm (R157): the new statistics and whether it jumped. -/
def normStep (k shift : Nat) (x : NormState) (r : Nat) : NormState × Bool :=
  if normJumps k x r then
    if 3 ≤ x.jrun then (normUpdate shift { x with warm := 0, jrun := 0 } r, true)
    else ({ x with rms := r, jrun := x.jrun + 1 }, true)
  else (normUpdate shift { x with jrun := 0 } r, false)

/-- The local norm test of a layer whose output (or watched gradient) is complete on this module (R159): a jump makes the
module's vote false and raises the layer's one EV_NORM_JUMP of the step. -/
def localNorm (s : State) (l : SteerLayer) (grad : Bool) : State :=
  let n := stLayer l.desc
  let x := layerStat s n
  let which := bit grad
  if !stNormEn l.desc || stNormAct l.desc < 2 || x.tested.testBit which then s
  else
    let t := tensorStat s (watchedGrad s l.desc)
    let (count, squares) := if grad then (t.n, t.squares) else (x.n, x.squares)
    let s := setLayerStat s n { x with tested := x.tested + 2 ^ which }
    if count = 0 then s
    else
      let r := rmsCode squares count
      if !normJumps (stNormK l.desc) (normOf l.layer grad) r then s
      else
        let s := { s with step := { s.step with causes := s.step.causes ||| 4 } }
        let y := layerStat s n
        if y.tested.testBit 2 then s
        else raise (setLayerStat s n { y with tested := y.tested + 4 })
          { code := 0x2003, src := 1, argS := n, a0 := 4 + (if grad then 2 else 1), a1 := r }

end Sys2Proof.Machine
end

