-- ==== Sys2Proof/Machine/SealFrames.lean ====
section
/-! DEFINITION. The rows of the barrier and of SEAL frames: the buddy's side, the origin's side and the spare's pull
(R359 to R361, R367 to R370, R378, R380 to R382, R385), and the timeouts of lost peers and hosts (R319, R373, R374). -/

namespace Sys2Proof.Machine

/-! ### Frames as rows take them -/

/-- A frame no receiver has a use for: a SEAL frame of a reserved kind or a frame of a reserved phase (R359, R537). -/
def reservedFrame (f : Frame) : Bool :=
  if fType f = 3 then decide (10 < fPhase f)
  else (decide (8 ≤ fPhase f) && decide (fPhase f ≤ 14)) ||
    (fPhase f == 15 && fOpNum f != 0xFFFFFFE && fOpNum f != 0xFFFFFFF)

/-- What a row makes of an arriving frame: the link layer first (R314 to R316), then, for a frame of the row's own
kind, `act` (log 21). -/
def receive (s : State) (p : Nat) (f : Frame) (mine : Frame → Bool) (act : State → Frame → State) : State :=
  match linkReceive s p f with
  | (s, none) => s
  | (s, some f) =>
    if reservedFrame f then bump s 0xEC1
    else if mine f && foremanUp s then act s f
    else s

/-- A SEAL frame of kind k. -/
def isSeal (k : Nat) (f : Frame) : Bool := fType f == 3 && fPhase f == k

/-! ### Items (R321, R359) -/

/-- An item with the lines of one more frame; the flag says that a line was a repeat. -/
def addLines (it : SealItem) (f : Frame) : SealItem × Bool :=
  let (lines, marks, again) := joinLines it.lines it.marks f
  let it := { it with lines := lines, marks := marks }
  (if fLast f then { it with total := some (fOffset f + fLen f) } else it, again)

/-- Every line of the item has arrived. -/
def itemDone (it : SealItem) : Bool :=
  match it.total with
  | some n => it.lines.length == n
  | none => false

/-- The item (kind, number) among some. -/
def findItem (l : List SealItem) (kind item : Nat) : SealItem :=
  (l.find? fun it => it.kind == kind && it.item == item).getD ⟨kind, item, [], [], none⟩

/-- The list with that item replaced. -/
def putItem (l : List SealItem) (it : SealItem) : List SealItem :=
  (l.filter fun x => !(x.kind == it.kind && x.item == it.item)) ++ [it]

/-- The bytes of an item. -/
def itemBytes (it : SealItem) : List Byte := (it.lines.map fun l => bytesOfNat 64 l.2.toNat).flatten

/-- The bytes of every item of a kind, in item order. -/
def kindBytes (l : List SealItem) (kind : Nat) : List Byte :=
  let xs := (l.filter fun it => it.kind == kind).foldl (fun (acc : List (Nat × List Byte)) it =>
    mapSet acc it.item (itemBytes it)) []
  (xs.map (·.2)).flatten

/-- A word written into a page image at a page offset, with a tag and its poison (R348, R359). -/
def imageWord (im : PageImage) (o d tag : Nat) (poison : Bool) : PageImage :=
  ⟨cellsPut im.data o (bytesOfNat 16 d), cellsPut im.metadata (o / 8) (bytesOfNat 2 (writeMeta d tag poison))⟩

/-- The page image of a PAGE item: each word stored with the generation's tag, those of a marked line poisoned (R348, R359,
R368). -/
def itemImage (it : SealItem) (tag : Nat) : PageImage :=
  imageOf tag (it.lines.flatMap fun l => (List.range 4).map fun i =>
    (4 * l.1 + i, l.2.toNat / 2 ^ (128 * i) % 2 ^ 128, it.marks.contains l.1))

/-- The lines of a page image, with the lines that hold a bad word marked. -/
def imageLines (im : PageImage) : List (Line × Bool) :=
  (cut 4 32768 (imageWords im)).map fun ws =>
    (BitVec.ofNat 512 (natOfBytes ((ws.map fun r => bytesOfNat 16 r.data).flatten)), ws.any badWord)

/-! ### The buddy's side (R367 to R370) -/

/-- The origin this module serves, none without a job. -/
def originOf (s : State) : Nat := if jobExists s then sdOrigin s.job.sealDesc else 0xFFFF

/-- This module's buddy, none without a job. -/
def buddyOf (s : State) : Nat := if jobExists s then sdBuddy s.job.sealDesc else 0xFFFF

/-- The generation flipped in for the present origin: the image is that origin's, or the origin is the spare that
the image is served to (R367, R386, log 22). -/
def flippedIn (s : State) : Option (BitVec 32) :=
  let o := originOf s
  let mine := s.buddy.owner == some o || (match s.buddy.serve with | some (sp, _) => sp == o | none => false)
  if o ≠ 0xFFFF && mine then s.buddy.s else none

/-- A SEAL frame of kinds 0 to 3 with this TAG is accepted from the origin (R367). -/
def buddyAccepts (s : State) (tag : BitVec 32) : Bool :=
  match flippedIn s with
  | some g => tag == g + 1
  | none => s.buddy.reserveTag == some tag

/-- Words of journal records put at an address, each with the poison of its line (R358, R359, R368). -/
def applyWords (pages : List (Nat × PageImage)) (addr : Nat) (ws : List (Nat × Bool)) (tag : Nat) : List (Nat × PageImage) :=
  (ws.zipIdx).foldl (fun (pages : List (Nat × PageImage)) w =>
    let a := addr + 16 * w.2
    let im := mapGet pages (a / 2 ^ 21) ⟨[], []⟩
    mapSet pages (a / 2 ^ 21) (imageWord im (a % 2 ^ 21) w.1.1 tag w.1.2)) pages

/-- The entries of a journal chunk's words, one after another: a header word, then eight words for each record. -/
def applyJournal (fuel : Nat) (pages : List (Nat × PageImage)) (ws : List (Nat × Bool)) (tag : Nat) : List (Nat × PageImage) :=
  match fuel, ws with
  | 0, _ => pages
  | _, [] => pages
  | fuel + 1, h :: rest =>
    let n := natFld h.1 79 48
    if n = 0 then pages
    else applyJournal fuel (applyWords pages (natFld h.1 47 0) (rest.take (8 * n)) tag) (rest.drop (8 * n)) tag

/-- The words of an item, each with the mark of its line. -/
def itemWords (it : SealItem) : List (Nat × Bool) :=
  it.lines.flatMap fun l => (List.range 4).map fun i => (l.2.toNat / 2 ^ (128 * i) % 2 ^ 128, it.marks.contains l.1)

/-- The pages of the image that a generation replaces, as they were. -/
def replacedPages (old new : List (Nat × PageImage)) : List (Nat × Option PageImage) :=
  (new.filter fun e => mapFind old e.1 != some e.2).map fun e => (e.1, mapFind old e.1)

/-- The shadow generation is flipped in, in one action, and SECURED goes to the origin (R368). -/
def flipIn (s : State) (tag : BitVec 32) : State :=
  let b := s.buddy
  let base := if (flippedIn s).isSome then b.pages else []
  let t := tag.toNat % 64
  let pages := (b.shadow.filter fun it => it.kind == 0).foldl (fun (p : List (Nat × PageImage)) it =>
    mapSet p it.item (itemImage it t)) base
  let chunks := (b.shadow.filter fun it => it.kind == 1).foldl (fun (acc : List (Nat × List (Nat × Bool))) it =>
    mapSet acc it.item (itemWords it)) []
  let pages := chunks.foldl (fun p c => applyJournal 16384 p c.2 t) pages
  let kept := if (flippedIn s).isSome then some (replacedPages base pages, b.record) else none
  let o := originOf s
  let b := { b with owner := some o, pages := pages, record := kindBytes b.shadow 2, s := some tag, retained := kept,
                    shadow := [], marker := none, shadowGen := none }
  sendSeal { s with buddy := b } o 5 0 tag.toNat 0

/-- The generation is flipped in once the marker and every item it counts are there (R368). -/
def tryFlip (s : State) : State :=
  match s.buddy.marker, s.buddy.shadowGen with
  | some n, some tag =>
    if n ≤ (s.buddy.shadow.filter itemDone).length then flipIn s tag else s
  | _, _ => s

/-- An item's frame is stored in shadow, ACK follows its last line, a repeat is counted (R321, R368). -/
def buddyStore (s : State) (f : Frame) : State :=
  let tag := BitVec.ofNat 32 (fTag f)
  let b := if s.buddy.shadowGen == some tag then s.buddy else { s.buddy with shadow := [], marker := none, shadowGen := some tag }
  let old := findItem b.shadow (fPhase f) (fOpNum f)
  let (it, again) := addLines old f
  let s := if again then bump s 0xEC3 else s
  let s := { s with buddy := { b with shadow := putItem b.shadow it } }
  if itemDone it && !itemDone old then
    tryFlip (sendSeal s (fSrc f) 4 0 tag.toNat (fPhase f * 2 ^ 28 + fOpNum f))
  else s

/-- A SEAL frame of kinds 0 to 2 that the buddy does not accept: counted as stale (R367). -/
def staleSeal (s : State) : State := bump s 0xEC4

/-! ### Pages and records for the spare and for a local restore (R378, R380, R381) -/

/-- A restore or a repair of this module awaits that item from its buddy. -/
def awaits (s : State) (f : Frame) : Bool :=
  fSrc f == buddyOf s &&
    (match s.restore with
     | some r => r.target.toNat == fTag f && (r.pull || (fPhase f == 0 && r.wanted.contains (fOpNum f)))
     | none => fPhase f == 0 && s.step.barrier == 0 && s.ident.committed.toNat == fTag f && s.sealer.repair.contains (fOpNum f) &&
         !s.sealer.dirtyPages.contains (fOpNum f))

/-- Pages of a finished pull written in place with the tag of x (R348, R381). -/
def writePulled (s : State) (x : Nat) : State :=
  (s.sealer.incoming.filter fun it => it.kind == 0).foldl (fun s it => writePage s it.item (itemImage it (x % 64))) s

/-- A restore that is refused: nothing is loaded, and the job is as before the command (R382, R395). -/
def refuseRestore (s : State) (r : RestoreSt) (rep : Reply) : State :=
  let s := { s with restore := none, job := { s.job with state := r.prior }, sealer := { s.sealer with incoming := [] } }
  match r.mailbox with
  | some m => endRestore s m rep
  | none => s

/-- The pull is complete once PULLED's count of items has arrived: the checks of R382, the pages, the sections. -/
def tryPull (s : State) : State :=
  match s.restore with
  | some r =>
    match (if r.pull then r.expected else none) with
    | some n =>
      if n ≤ (s.sealer.incoming.filter itemDone).length then
        let rec_ := kindBytes s.sealer.incoming 2
        match checkRecord s rec_ r.target r.rank r.cursor with
        | some (c, item) => refuseRestore s r (refuse REFUSE_RESTORE_MISMATCH 382 c item)
        | none => finishRestore (writePulled s r.target.toNat) r rec_
      else s
    | none => s
  | none => s

/-- A page fetched whole for a local restore or for a repair is written in place (R378, R380). -/
def fetched (s : State) (it : SealItem) : State :=
  match s.restore with
  | some r =>
    let s := writePage s it.item (itemImage it (r.target.toNat % 64))
    let left := r.wanted.filter (· != it.item)
    let s := { s with restore := some { r with wanted := left },
                      sealer := { s.sealer with incoming := s.sealer.incoming.filter fun x => x.item != it.item } }
    match left, localRecord s r.target with
    | [], some rec_ => finishRestore s { r with wanted := [] } rec_
    | _, _ => s
  | none =>
    let s := writePage s it.item (itemImage it (s.ident.committed.toNat % 64))
    { s with sealer := { s.sealer with repair := s.sealer.repair.filter (· != it.item),
                                       incoming := s.sealer.incoming.filter fun x => x.item != it.item } }

/-- A PAGE or RECORD frame the module awaits from its buddy. -/
def spareStore (s : State) (f : Frame) : State :=
  let old := findItem s.sealer.incoming (fPhase f) (fOpNum f)
  let (it, again) := addLines old f
  let s := if again then bump s 0xEC3 else s
  let s := { s with sealer := { s.sealer with incoming := putItem s.sealer.incoming it } }
  if itemDone it && !itemDone old then
    match s.restore with
    | some r => if r.pull then tryPull s else fetched s it
    | none => fetched s it
  else s

/-- A PAGE, JOURNAL or RECORD frame (R367, R381). -/
def itemArrives (s : State) (f : Frame) : State :=
  if fPhase f != 1 && awaits s f then spareStore s f
  else if fSrc f == originOf s && buddyAccepts s (BitVec.ofNat 32 (fTag f)) then buddyStore s f
  else staleSeal s

/-- MARKER (R367, R368). -/
def markerArrives (s : State) (f : Frame) : State :=
  let tag := BitVec.ofNat 32 (fTag f)
  if fSrc f == originOf s && buddyAccepts s tag then
    let b := if s.buddy.shadowGen == some tag then s.buddy else { s.buddy with shadow := [], shadowGen := some tag }
    tryFlip { s with buddy := { b with marker := some (fOffset f) } }
  else staleSeal s

/-- COMMIT: the retained copies of the generation before S go (R369). -/
def commitArrives (s : State) (f : Frame) : State :=
  if fSrc f == originOf s && flippedIn s == some (BitVec.ofNat 32 (fTag f)) then
    { s with buddy := { s.buddy with retained := none } }
  else s

/-- The image one generation back: each replaced page and the record as they were (R369). -/
def reinstate (b : BuddySt) (pages : List (Nat × Option PageImage)) (rec_ : List Byte) (x : BitVec 32) : BuddySt :=
  let ps := pages.foldl (fun (acc : List (Nat × PageImage)) e =>
    match e.2 with
    | some im => mapSet acc e.1 im
    | none => mapErase acc e.1) b.pages
  { b with pages := ps, record := rec_, s := some x, retained := none }

/-- DISCARD for x at the buddy, none where it names a generation that is neither S nor the retained one (R369). -/
def discardTo (b : BuddySt) (x : BitVec 32) : Option BuddySt :=
  let clear := fun (b : BuddySt) =>
    match b.shadowGen with
    | some g => if laterGen g x then { b with shadow := [], marker := none, shadowGen := none } else b
    | none => b
  match b.s with
  | none => none
  | some g =>
    if g = x then some (clear b)
    else if g = x + 1 then
      match b.retained with
      | some (pages, rec_) => some (reinstate (clear b) pages rec_ x)
      | none => none
    else none

/-- DISCARD arrives (R369): any other generation is ignored and counted. -/
def discardArrives (s : State) (f : Frame) : State :=
  match (if fSrc f == originOf s && (flippedIn s).isSome then discardTo s.buddy (BitVec.ofNat 32 (fTag f)) else none) with
  | some b => { s with buddy := b }
  | none => staleSeal s

/-- One page of the image at x for the origin that asks for it (R378, R380, log 59). -/
def servePage (s : State) (dest v : Nat) (x : BitVec 32) : State :=
  match (discardTo s.buddy x).bind fun b => mapFind b.pages v with
  | some im => sendItem s dest 0 v x.toNat (imageLines im)
  | none => s

/-- PULL: answered only to the spare and for the generation PULL_SERVE named, after DISCARD for it (R370); a page that the module's
own origin asks for is sent to it (log 59). -/
def pullArrives (s : State) (f : Frame) : State :=
  let x := BitVec.ofNat 32 (fTag f)
  if fOpNum f != 0 then (if fSrc f == originOf s then servePage s (fSrc f) (fOpNum f - 1) x else s)
  else if s.buddy.serve == some (fSrc f, x) then
    match discardTo s.buddy x with
    | none => s
    | some b =>
      let s := { s with buddy := b }
      let s := b.pages.foldl (fun s e => sendItem s (fSrc f) 0 e.1 x.toNat (imageLines e.2)) s
      let recs := chunksOf b.record
      let s := (List.range recs.length).foldl (fun s i =>
        sendItem s (fSrc f) 2 i x.toNat ((linesOf (recs.getD i [])).map fun l => (l, false))) s
      sendSeal s (fSrc f) 9 0 x.toNat (b.pages.length + recs.length)
  else s

/-- RESERVE: a request of the origin is answered with RESERVE_PAGES, a buddy's reply is kept for R351. Between two
modules that are each other's buddy the first frame of a TAG is the request (log 23). -/
def reserveArrives (s : State) (f : Frame) : State :=
  let tag := BitVec.ofNat 32 (fTag f)
  if fSrc f == originOf s && !(fSrc f == buddyOf s && s.buddy.reserveTag == some tag) then
    let s := { s with buddy := { s.buddy with reserveTag := some tag } }
    sendSeal s (fSrc f) 10 0 tag.toNat (sdReservePages s.job.sealDesc)
  else if fSrc f == buddyOf s then { s with sealer := { s.sealer with reserve := some (fOffset f) } }
  else s

/-! ### The origin's side -/

/-- ACK: the item is stored at the buddy. -/
def ackArrives (s : State) (f : Frame) : State :=
  if fSrc f == buddyOf s && s.sealer.gen.toNat == fTag f then
    let k := (fOffset f / 2 ^ 28, fOffset f % 2 ^ 28)
    { s with sealer := { s.sealer with unacked := s.sealer.unacked.filter (· != k) } }
  else s

/-- SECURED: the generation in shipment is flipped in at the buddy (R357). -/
def securedArrives (s : State) (f : Frame) : State :=
  if fSrc f == buddyOf s && s.sealer.phase == 2 && s.sealer.gen.toNat == fTag f then sealSecured s s.sealer.gen
  else s

/-- PULLED: its count of items completes the pull (R381). -/
def pulledArrives (s : State) (f : Frame) : State :=
  match s.restore with
  | some r =>
    if r.pull && fSrc f == buddyOf s && r.target.toNat == fTag f then
      tryPull { s with restore := some { r with expected := some (fOffset f) } }
    else s
  | none => s

/-! ### The rows -/

/-- BARRIER_FRAME (R360, R361, R373, R376, R385). -/
def execBarrierFrame (port : Fin 24) (f : Frame) (s : State) : Host.Outcome State Fault Refusal :=
  .next (receive s port.val f (fun f => fType f == 2 && fOp f == 0xFFFFFFFF) barrierArrives)

/-- BARRIER_RESEND (R361): 10 ms have passed while the module waits at a barrier or holds. -/
def execBarrierResend (s : State) : Host.Outcome State Fault Refusal :=
  .next (if waitsAtBarrier s && !stopped s then resendBarrier s else s)

/-- SEAL_PAGE_FRAME (R367, R378, R380, R381). -/
def execSealPageFrame (port : Fin 24) (f : Frame) (s : State) : Host.Outcome State Fault Refusal :=
  .next (receive s port.val f (isSeal 0) itemArrives)

/-- SEAL_JOURNAL_FRAME (R367). -/
def execSealJournalFrame (port : Fin 24) (f : Frame) (s : State) : Host.Outcome State Fault Refusal :=
  .next (receive s port.val f (isSeal 1) itemArrives)

/-- SEAL_RECORD_FRAME (R367, R381). -/
def execSealRecordFrame (port : Fin 24) (f : Frame) (s : State) : Host.Outcome State Fault Refusal :=
  .next (receive s port.val f (isSeal 2) itemArrives)

/-- SEAL_MARKER_FRAME (R367, R368). -/
def execSealMarkerFrame (port : Fin 24) (f : Frame) (s : State) : Host.Outcome State Fault Refusal :=
  .next (receive s port.val f (isSeal 3) markerArrives)

/-- SEAL_ACK_FRAME (R359). -/
def execSealAckFrame (port : Fin 24) (f : Frame) (s : State) : Host.Outcome State Fault Refusal :=
  .next (receive s port.val f (isSeal 4) ackArrives)

/-- SEAL_SECURED_FRAME (R357, R361). -/
def execSealSecuredFrame (port : Fin 24) (f : Frame) (s : State) : Host.Outcome State Fault Refusal :=
  .next (receive s port.val f (isSeal 5) securedArrives)

/-- SEAL_COMMIT_FRAME (R369). -/
def execSealCommitFrame (port : Fin 24) (f : Frame) (s : State) : Host.Outcome State Fault Refusal :=
  .next (receive s port.val f (isSeal 6) commitArrives)

/-- SEAL_DISCARD_FRAME (R369). -/
def execSealDiscardFrame (port : Fin 24) (f : Frame) (s : State) : Host.Outcome State Fault Refusal :=
  .next (receive s port.val f (isSeal 7) discardArrives)

/-- SEAL_PULL_FRAME (R370). -/
def execSealPullFrame (port : Fin 24) (f : Frame) (s : State) : Host.Outcome State Fault Refusal :=
  .next (receive s port.val f (isSeal 8) pullArrives)

/-- SEAL_PULLED_FRAME (R381, R382). -/
def execSealPulledFrame (port : Fin 24) (f : Frame) (s : State) : Host.Outcome State Fault Refusal :=
  .next (receive s port.val f (isSeal 9) pulledArrives)

/-- SEAL_RESERVE_FRAME (R351, R367). -/
def execSealReserveFrame (port : Fin 24) (f : Frame) (s : State) : Host.Outcome State Fault Refusal :=
  .next (receive s port.val f (isSeal 10) reserveArrives)

/-! ### Timeouts (R319, R373, R374) -/

/-- NO_ROUTE_TIMEOUT (R319): 10 ms without a usable slot for a destination that frames wait for. -/
def execNoRouteTimeout (dest : BitVec 16) (s : State) : Host.Outcome State Fault Refusal :=
  .next (
    match mapFind s.fab.noRoute dest.toNat with
    | some (since, none) =>
      if stopped s then s
      else
        let s := advanceTo s (since + 10000000)
        let s := { s with fab := { s.fab with noRoute := mapSet s.fab.noRoute dest.toNat (since, some (timebase s)) } }
        raise s { code := 0x5003, src := 6, argS := dest.toNat }
    | _ => s)

/-- Modules the module waits on at its barrier, or for its seal (R373). -/
def barrierPeers (s : State) : List Nat :=
  let members := if s.step.barrier != 0 then (match barrierGroup s with | some g => otherMembers g | none => []) else []
  members ++ (if s.sealer.phase == 2 || s.restore.isSome then [buddyOf s] else [])

/-- The last time the wait on a peer can have begun: no frame of it since (R373). -/
def silentSince (s : State) (m : Nat) : Nat := mapGet s.fab.lastFrame m 0

/-- EV_HOST_LOST of a queue that stayed full for HOST_TIMEOUT with no HEAD write (R374). -/
def execHostTimeout (s : State) : Host.Outcome State Fault Refusal :=
  .next (
    match s.evq.fullSince with
    | some t =>
      if stopped s || !evqFull s.evq then s
      else
        let lim := if jobExists s then sdHostTimeout s.job.sealDesc else 30
        hostLost { advanceTo s (t + lim * 1000000000) with evq := { s.evq with fullSince := none } } 1
    | none => s)

end Sys2Proof.Machine
end

