-- ==== Sys2Proof/Machine/Crypto.lean ====
section
/-! DEFINITION. The standards that the security chapter names (R475, R477, R482, R486): SHA-384 of FIPS
180-4, ECDSA over brainpoolP384r1 of RFC 5639, the deterministic nonce of RFC 6979, and the place of the
subject public key in an X.509 version 3 certificate. Their constants are the standards' own (log 13). -/

namespace Sys2Proof.Machine

/-! ### SHA-384 -/

/-- SHA-384 round constants 0 to 19. -/
def shaK0 : List Nat :=
  [0x428A2F98D728AE22, 0x7137449123EF65CD, 0xB5C0FBCFEC4D3B2F, 0xE9B5DBA58189DBBC,
   0x3956C25BF348B538, 0x59F111F1B605D019, 0x923F82A4AF194F9B, 0xAB1C5ED5DA6D8118,
   0xD807AA98A3030242, 0x12835B0145706FBE, 0x243185BE4EE4B28C, 0x550C7DC3D5FFB4E2,
   0x72BE5D74F27B896F, 0x80DEB1FE3B1696B1, 0x9BDC06A725C71235, 0xC19BF174CF692694,
   0xE49B69C19EF14AD2, 0xEFBE4786384F25E3, 0x0FC19DC68B8CD5B5, 0x240CA1CC77AC9C65]

/-- SHA-384 round constants 20 to 39. -/
def shaK1 : List Nat :=
  [0x2DE92C6F592B0275, 0x4A7484AA6EA6E483, 0x5CB0A9DCBD41FBD4, 0x76F988DA831153B5,
   0x983E5152EE66DFAB, 0xA831C66D2DB43210, 0xB00327C898FB213F, 0xBF597FC7BEEF0EE4,
   0xC6E00BF33DA88FC2, 0xD5A79147930AA725, 0x06CA6351E003826F, 0x142929670A0E6E70,
   0x27B70A8546D22FFC, 0x2E1B21385C26C926, 0x4D2C6DFC5AC42AED, 0x53380D139D95B3DF,
   0x650A73548BAF63DE, 0x766A0ABB3C77B2A8, 0x81C2C92E47EDAEE6, 0x92722C851482353B]

/-- SHA-384 round constants 40 to 59. -/
def shaK2 : List Nat :=
  [0xA2BFE8A14CF10364, 0xA81A664BBC423001, 0xC24B8B70D0F89791, 0xC76C51A30654BE30,
   0xD192E819D6EF5218, 0xD69906245565A910, 0xF40E35855771202A, 0x106AA07032BBD1B8,
   0x19A4C116B8D2D0C8, 0x1E376C085141AB53, 0x2748774CDF8EEB99, 0x34B0BCB5E19B48A8,
   0x391C0CB3C5C95A63, 0x4ED8AA4AE3418ACB, 0x5B9CCA4F7763E373, 0x682E6FF3D6B2B8A3,
   0x748F82EE5DEFB2FC, 0x78A5636F43172F60, 0x84C87814A1F0AB72, 0x8CC702081A6439EC]

/-- SHA-384 round constants 60 to 79. -/
def shaK3 : List Nat :=
  [0x90BEFFFA23631E28, 0xA4506CEBDE82BDE9, 0xBEF9A3F7B2C67915, 0xC67178F2E372532B,
   0xCA273ECEEA26619C, 0xD186B8C721C0C207, 0xEADA7DD6CDE0EB1E, 0xF57D4F7FEE6ED178,
   0x06F067AA72176FBA, 0x0A637DC5A2C898A6, 0x113F9804BEF90DAE, 0x1B710B35131C471B,
   0x28DB77F523047D84, 0x32CAAB7B40C72493, 0x3C9EBE0A15C9BEBC, 0x431D67C49C100D4C,
   0x4CC5D4BECB3E42B6, 0x597F299CFC657E2A, 0x5FCB6FAB3AD6FAEC, 0x6C44198C4A475817]

/-- The SHA-384 round constants. -/
def shaK : List Nat := shaK0 ++ shaK1 ++ shaK2 ++ shaK3

/-- The SHA-384 initial hash value. -/
def shaInit : List Nat :=
  [0xCBBB9D5DC1059ED8, 0x629A292A367CD507, 0x9159015A3070DD17, 0x152FECD8F70E5939,
   0x67332667FFC00B31, 0x8EB44A8768581511, 0xDB0C2E0D64F98FA7, 0x47B5481DBEFA4FA4]

/-- Addition modulo 2^64. -/
def add64 (a b : Nat) : Nat := (a + b) % 2 ^ 64

/-- Rotate a 64-bit word right. -/
def rotr64 (x n : Nat) : Nat := x / 2 ^ n + x * 2 ^ (64 - n) % 2 ^ 64

/-- Extend the message schedule, held newest first, by k words. -/
def shaExtend : Nat → List Nat → List Nat
  | 0, w => w
  | k + 1, w =>
    let g := fun i => w.getD i 0
    let s0 := rotr64 (g 14) 1 ^^^ rotr64 (g 14) 8 ^^^ g 14 / 2 ^ 7
    let s1 := rotr64 (g 1) 19 ^^^ rotr64 (g 1) 61 ^^^ g 1 / 2 ^ 6
    shaExtend k (add64 (add64 s1 (g 6)) (add64 s0 (g 15)) :: w)

/-- One compression round on the eight working variables. -/
def shaRound (v : List Nat) (kw : Nat × Nat) : List Nat :=
  let g := fun i => v.getD i 0
  let a := g 0
  let e := g 4
  let s1 := rotr64 e 14 ^^^ rotr64 e 18 ^^^ rotr64 e 41
  let ch := (e &&& g 5) ^^^ ((2 ^ 64 - 1 - e) &&& g 6)
  let t1 := add64 (add64 (g 7) s1) (add64 ch (add64 kw.1 kw.2))
  let s0 := rotr64 a 28 ^^^ rotr64 a 34 ^^^ rotr64 a 39
  let mj := (a &&& g 1) ^^^ (a &&& g 2) ^^^ (g 1 &&& g 2)
  [add64 t1 (add64 s0 mj), a, g 1, g 2, add64 (g 3) t1, e, g 5, g 6]

/-- Compress one 128-byte block. -/
def shaBlock (h : List Nat) (blk : List Byte) : List Nat :=
  let w0 := (List.range 16).map fun i => natOfBytesBE (slice blk (8 * i) 8)
  let w := (shaExtend 64 w0.reverse).reverse
  List.zipWith add64 h ((List.zip shaK w).foldl shaRound h)

/-- Compress k blocks in order. -/
def shaBlocks : Nat → List Nat → List Byte → List Nat
  | 0, h, _ => h
  | k + 1, h, m => shaBlocks k (shaBlock h (m.take 128)) (m.drop 128)

/-- SHA-384 of a byte string: 48 bytes. -/
def sha384 (m : List Byte) : List Byte :=
  let z := (240 - (m.length + 1) % 128) % 128
  let padded := m ++ [0x80] ++ List.replicate z 0 ++ bytesBE 16 (8 * m.length)
  ((shaBlocks (padded.length / 128) shaInit padded).take 6).flatMap (bytesBE 8)

/-- HMAC with SHA-384. -/
def hmac384 (key m : List Byte) : List Byte :=
  let k := fitBytes key 128
  sha384 (k.map (· ^^^ 0x5C) ++ sha384 (k.map (· ^^^ 0x36) ++ m))

/-! ### brainpoolP384r1 -/

def curveP : Nat := 0x8CB91E82A3386D280F5D6F7E50E641DF152F7109ED5456B412B1DA197FB71123ACD3A729901D1A71874700133107EC53
def curveA : Nat := 0x7BC382C63D8C150C3C72080ACE05AFA0C2BEA28E4FB22787139165EFBA91F90F8AA5814A503AD4EB04A8C7DD22CE2826
def curveB : Nat := 0x04A8C7DD22CE28268B39B55416F0447C2FB77DE107DCD2A62E880EA53EEB62D57CB4390295DBC9943AB78696FA504C11
def curveN : Nat := 0x8CB91E82A3386D280F5D6F7E50E641DF152F7109ED5456B31F166E6CAC0425A7CF3AB6AF6B7FC3103B883202E9046565
def curveGx : Nat := 0x1D1C64F068CF45FFA2A63A81B7C13F6B8847A3E77EF14FE3DB7FCAFE0CBD10E8E826E03436D646AAEF87B2E247D4AF1E
def curveGy : Nat := 0x8ABE1D7520F9C2A45CB1EB8E95CFD55262B70B29FEEC5864E19C054FF99129280E4646217791811142820341263C5315

/-- b^e mod m, for exponents below 2^bits. -/
def powMod (m : Nat) : Nat → Nat → Nat → Nat
  | 0, _, _ => 1 % m
  | bits + 1, b, e =>
    let r := powMod m bits (b * b % m) (e / 2)
    if e % 2 = 1 then r * b % m else r

/-- The inverse modulo a prime. -/
def invMod (m a : Nat) : Nat := powMod m 384 (a % m) (m - 2)

/-- The sum of two points; none is the point at infinity. -/
def ecAdd (P Q : Option (Nat × Nat)) : Option (Nat × Nat) :=
  match P, Q with
  | none, q => q
  | p, none => p
  | some (x1, y1), some (x2, y2) =>
    if x1 = x2 && (y1 + y2) % curveP = 0 then none
    else
      let l :=
        if x1 = x2 then (3 * x1 * x1 + curveA) * invMod curveP (2 * y1) % curveP
        else (y2 + curveP - y1) * invMod curveP (x2 + curveP - x1) % curveP
      let x3 := (l * l + 2 * curveP - x1 - x2) % curveP
      some (x3, (l * (x1 + curveP - x3) + curveP - y1) % curveP)

/-- Twice a point whose coordinates are held as (X, Y, Z) for (X/Z², Y/Z³); Z is 0 at infinity. -/
def ecDouble (q : Nat × Nat × Nat) : Nat × Nat × Nat :=
  let (x, y, z) := q
  let yy := y * y % curveP
  let s := 4 * x * yy % curveP
  let zz := z * z % curveP
  let m := (3 * x * x + curveA * (zz * zz)) % curveP
  let x3 := (m * m + 2 * curveP - 2 * s) % curveP
  (x3, (m * (s + curveP - x3) + curveP - 8 * yy * yy % curveP) % curveP, 2 * y * z % curveP)

/-- The sum of a point so held and the point (a, b). -/
def ecSum (q : Nat × Nat × Nat) (a b : Nat) : Nat × Nat × Nat :=
  let (x, y, z) := q
  if z = 0 then (a, b, 1)
  else
    let zz := z * z % curveP
    let h := (a * zz + curveP - x) % curveP
    let r := (b * (z * zz % curveP) + curveP - y) % curveP
    if h = 0 then (if r = 0 then ecDouble q else (1, 1, 0))
    else
      let hh := h * h % curveP
      let hhh := h * hh % curveP
      let v := x * hh % curveP
      let x3 := (r * r + 3 * curveP - hhh - 2 * v) % curveP
      (x3, (r * (v + curveP - x3) + curveP - y * hhh % curveP) % curveP, z * h % curveP)

/-- k times (a, b) for k below 2^bits, from the top bit down. -/
def ecLadder (a b : Nat) : Nat → Nat → Nat × Nat × Nat
  | 0, _ => (1, 1, 0)
  | bits + 1, k =>
    let q := ecDouble (ecLadder a b bits (k / 2))
    if k % 2 = 1 then ecSum q a b else q

/-- A multiple of a point, for factors below 2^bits. -/
def ecMul (bits k : Nat) (P : Option (Nat × Nat)) : Option (Nat × Nat) :=
  match P with
  | none => none
  | some (a, b) =>
    let (x, y, z) := ecLadder a b bits k
    if z = 0 then none
    else
      let i := invMod curveP z
      let ii := i * i % curveP
      some (x * ii % curveP, y * (ii * i % curveP) % curveP)

/-- The base point. -/
def ecG : Option (Nat × Nat) := some (curveGx, curveGy)

/-- The point a 97-byte public key names (R475), none where it is not one of the curve. -/
def pointOfKey (k : List Byte) : Option (Nat × Nat) :=
  let x := natOfBytesBE (slice k 1 48)
  let y := natOfBytesBE (slice k 49 48)
  if k.length = 97 && byteAt k 0 = 4 && decide (x < curveP) && decide (y < curveP) &&
      (y * y) % curveP = (x * x * x + curveA * x + curveB) % curveP then some (x, y) else none

/-- The public key of a private key, as 97 bytes (R475, R478). -/
def publicKey (d : Nat) : List Byte :=
  match ecMul 384 d ecG with
  | some (x, y) => 4 :: (bytesBE 48 x ++ bytesBE 48 y)
  | none => List.replicate 97 0

/-- ECDSA verification of a 96-byte signature (R475). -/
def ecdsaVerify (key msg sig : List Byte) : Bool :=
  let r := natOfBytesBE (slice sig 0 48)
  let s := natOfBytesBE (slice sig 48 48)
  match pointOfKey key with
  | none => false
  | some q =>
    if r = 0 || s = 0 || decide (curveN ≤ r) || decide (curveN ≤ s) then false
    else
      let z := natOfBytesBE (sha384 msg)
      let w := invMod curveN s
      match ecAdd (ecMul 384 (z * w % curveN) ecG) (ecMul 384 (r * w % curveN) (some q)) with
      | none => false
      | some (x, _) => x % curveN = r

/-- Candidate nonces of RFC 6979 with HMAC-SHA-384, at most `fuel` of them, until one signs. -/
def signLoop (d z : Nat) : Nat → List Byte → List Byte → List Byte
  | 0, _, _ => List.replicate 96 0
  | fuel + 1, kk, v =>
    let v := hmac384 kk v
    let k := natOfBytesBE v
    let retry := fun (_ : Unit) =>
      let kk := hmac384 kk (v ++ [0])
      signLoop d z fuel kk (hmac384 kk v)
    if k = 0 || decide (curveN ≤ k) then retry ()
    else
      match ecMul 384 k ecG with
      | none => retry ()
      | some (x, _) =>
        let r := x % curveN
        let s := invMod curveN k * (z + r * d) % curveN
        if r = 0 || s = 0 then retry () else bytesBE 48 r ++ bytesBE 48 s

/-- The deterministic ECDSA signature of RFC 6979 (R477), 96 bytes. -/
def ecdsaSign (d : Nat) (msg : List Byte) : List Byte :=
  let h := sha384 msg
  let z := natOfBytesBE h
  let seed := bytesBE 48 d ++ bytesBE 48 (z % curveN)
  let v := List.replicate 48 (1 : Byte)
  let kk := hmac384 (List.replicate 48 0) (v ++ [0] ++ seed)
  let v := hmac384 kk v
  let kk := hmac384 kk (v ++ [1] ++ seed)
  signLoop d z 64 kk (hmac384 kk v)

/-! ### The subject public key of a DER certificate (R486) -/

/-- Header length and content length of the DER element that starts the list. -/
def derLen (bs : List Byte) : Nat × Nat :=
  let l := (byteAt bs 1).toNat
  if l < 128 then (2, l) else (2 + (l - 128), natOfBytesBE (slice bs 2 (l - 128)))

/-- The content of the first DER element. -/
def derBody (bs : List Byte) : List Byte :=
  let (h, n) := derLen bs
  (bs.drop h).take n

/-- The list after its first DER element. -/
def derNext (bs : List Byte) : List Byte :=
  let (h, n) := derLen bs
  bs.drop (h + n)

/-- The subject public key: seventh element of tbsCertificate, its BIT STRING less the unused-bits byte. -/
def certKey (cert : List Byte) : List Byte :=
  let tbs := derBody (derBody cert)
  let spki := derNext (derNext (derNext (derNext (derNext (derNext tbs)))))
  (derBody (derNext (derBody spki))).drop 1

end Sys2Proof.Machine
end

