-- ==== Sys2Proof/Machine/Security.lean ====
section
/-! DEFINITION. Images, anti-rollback, attestation and life-cycle authorisations (R473 to R492). -/

namespace Sys2Proof.Machine

/-! ### Image verification (R481, R482) -/

/-- Largest image (R481). -/
def imageMax : Nat := 0x4000000

/-- Bytes of a span are zero. -/
def zeroSpan (bs : List Byte) (off size : Nat) : Bool := (slice bs off size).all (· == 0)

/-- Row 2 of R482: the header's own fields. -/
def headerBad (img : List Byte) (len : Nat) : Bool :=
  leAt img 0 4 != 0x5CE10F17 || leAt img 4 2 != 1 || leAt img 6 2 != 0 || leAt img 8 4 != len ||
    leAt img 16 4 / 2 ^ 14 != 0 || leAt img 20 4 != 512 || decide (len - 96 < 512 + leAt img 24 4) ||
    decide (leAt img 24 4 ≤ leAt img 28 4) || !zeroSpan img 32 224 || !zeroSpan img 353 159

/-- Row 3 of R482: the root key against ROOT_HASH and the curve. -/
def rootBad (f : FuseSt) (key : List Byte) : Bool :=
  f.rootHash == 0 || sha384 key != bytesBE 48 f.rootHash.toNat || (pointOfKey key).isNone

/-- Bytes 0 to IMAGE_LEN − 97 (R481). -/
def signedPart (img : List Byte) (len : Nat) : List Byte := img.take (len - 96)

/-- SVN, COMMIT_SVN and LC_MASK of an image header (R481). -/
def imageSvn (img : List Byte) : Nat := (byteAt img 16).toNat
def imageCommit (img : List Byte) : Bool := (byteAt img 17).toNat.testBit 0
def imageMask (img : List Byte) : Nat := leAt img 17 2 / 2 % 32

/-- The checks of R482 in row order; none where the image passes. -/
def checkImage (s : State) (len : Nat) (img : List Byte) : Option Reply :=
  let lc := lifecycleOf s.fuses
  if len < 1024 ∨ imageMax < len ∨ len % 16 ≠ 0 then some (refuse REFUSE_FW_FORMAT 482 1 0)
  else if headerBad img len then some (refuse REFUSE_FW_FORMAT 482 2 0)
  else if rootBad s.fuses (slice img 256 97) then some (refuse REFUSE_FW_SIGNATURE 482 3 0)
  else if !ecdsaVerify (slice img 256 97) (signedPart img len) (slice img (len - 96) 96) then
    some (refuse REFUSE_FW_SIGNATURE 482 4 0)
  else if imageSvn img < s.fuses.rollback then some (refuse REFUSE_FW_ROLLBACK 482 5 0)
  else if lc = 4 ∨ (imageMask img).testBit lc = false then some (refuse REFUSE_LIFECYCLE 482 6 0)
  else none

/-- A passing image in the boot ROM: the anti-rollback commit, the measurement, and the image waits to start (R479,
R483). -/
def admitImage (s : State) (len : Nat) (img : List Byte) : State :=
  let svn := imageSvn img
  let rb := if imageCommit img && decide (s.fuses.rollback < svn) then svn else s.fuses.rollback
  { s with
    fuses := { s.fuses with rollback := rb }
    ident := { s.ident with
      svn := BitVec.ofNat 8 svn, lcMask := BitVec.ofNat 5 (imageMask img), imageVersion := BitVec.ofNat 32 (leAt img 12 4),
      measurement := some (BitVec.ofNat 384 (natOfBytesBE (sha384 (signedPart img len)))), verified := true } }

/-- The image at a host address, copied whole; none where the read fails (R479). -/
def copyImage (s : State) (a len : Nat) : Option (List Byte) :=
  if canMaster s then some (hostGet s (pcieAddr s a) (min len imageMax)) else none

/-- FW_LOAD (R405, R479, R480): in the boot ROM the image is admitted; a running Foreman checks its own copy and the
reset follows the reply. -/
def cmdFwLoad : Command := fun s r =>
  let a := leAt r.payload 0 8
  let len := leAt r.payload 8 4
  if s.ident.stage = 0 ∧ s.ident.verified then (s, status NOT_READY)
  else
    match copyImage s a len with
    | none => (s, status DMA_FAULT)
    | some img =>
      match checkImage s len img with
      | some rep => (s, rep)
      | none =>
        let s := { s with ident := { s.ident with imageAddr := BitVec.ofNat 64 a, imageLen := BitVec.ofNat 32 len } }
        (if s.ident.stage = 0 then admitImage s len img else s, done (slice img 12 4))

/-- The boot ROM loads the image at IMAGE_ADDR again after a reset of cause 5; an image that no longer passes leaves the
module waiting (R405, R480). -/
def bootReload (s : State) : State :=
  let len := s.ident.imageLen.toNat
  match copyImage s s.ident.imageAddr.toNat len with
  | none => s
  | some img => if (checkImage s len img).isNone then admitImage s len img else s

/-! ### Attestation (R485, R486) -/

/-- The first 1,296 bytes of the report (R485). -/
def reportBody (s : State) (nonce : List Byte) : List Byte :=
  let f := s.fuses
  let cert := f.cert.take 1024
  bytesOfNat 4 0x5CE1A77E ++ bytesOfNat 2 1 ++ bytesOfNat 1 (lifecycleOf f) ++ bytesOfNat 1 s.ident.resetCause ++
    bytesOfNat 4 s.ident.imageVersion.toNat ++ bytesOfNat 1 s.ident.svn.toNat ++ bytesOfNat 1 f.rollback ++
    bytesOfNat 1 f.lcLog.length ++ bytesOfNat 1 (bit (!cert.isEmpty) + 2 * bit f.keyDestroyed) ++
    bytesOfNat 8 (timebase s) ++ bytesOfNat 16 f.serial.toNat ++ fitBytes nonce 32 ++
    bytesBE 48 (s.ident.measurement.getD 0).toNat ++ bytesBE 48 f.rootHash.toNat ++
    publicKey f.identityKey.toNat ++ bytesOfNat 1 0 ++ bytesOfNat 2 cert.length ++ bytesOfNat 4 0 ++ fitBytes cert 1024

/-- ATTEST (R485, R486); a report that cannot be written ends the command with DMA_FAULT (log 24). -/
def cmdAttest : Command := fun s r =>
  let lc := lifecycleOf s.fuses
  if lc = 0 ∨ lc = 4 then (s, refuse REFUSE_LIFECYCLE 486 0 0)
  else if !canMaster s then (s, status DMA_FAULT)
  else
    let body := reportBody s (slice r.payload 0 32)
    let rep := body ++ ecdsaSign s.fuses.identityKey.toNat body
    (hostPut s (pcieAddr s (leAt r.payload 32 8)) rep, done (bytesOfNat 4 1392))

/-! ### Life cycle (R488 to R491) -/

/-- Transitions of R488: none where not allowed, else whether an authorisation is required. -/
def transition (src dst : Nat) : Option Bool :=
  match src, dst with
  | 0, 1 => some true
  | 1, 2 => some true
  | 2, 3 => some false
  | 3, 2 => some true
  | 4, _ => none
  | _, 4 => some false
  | _, _ => none

/-- The first field of an authorisation that fails, as its byte offset (R489, R490). -/
def authBad (s : State) (src dst len : Nat) (a : List Byte) : Option Nat :=
  let f := s.fuses
  let n := leAt a 24 2
  let cert := slice a 136 n
  firstBad [(0, leAt a 0 4 != 0x5CE10A17), (4, (byteAt a 4).toNat != src), (5, (byteAt a 5).toNat != dst),
    (6, (byteAt a 6).toNat != f.lcLog.length), (7, byteAt a 7 != 0), (8, leAt a 8 16 != f.serial.toNat),
    (24, len != 232 + n || decide (1024 < n) || (n == 0) == (src == 1 && dst == 2)), (26, !zeroSpan a 26 6),
    (32, rootBad f (slice a 32 97)), (129, !zeroSpan a 129 7),
    (136, src == 1 && dst == 2 && certKey cert != publicKey f.identityKey.toNat),
    (136 + n, !ecdsaVerify (slice a 32 97) (slice a 0 (136 + n)) (slice a (136 + n) 96))]

/-- The fuses of a transition: key or certificate, then the slot with its completion fuse (R488, R491 step 3). -/
def blowFuses (s : State) (src dst : Nat) (cert : List Byte) : State :=
  let f := s.fuses
  let f := if f.lcLog.length < 16 then { f with lcLog := f.lcLog ++ [(dst, true)] } else f
  if src = 0 ∧ dst = 1 then
    let d := 1 + (Config.noise s.freeCtr).toNat % (curveN - 1)
    { s with fuses := { f with identityKey := BitVec.ofNat 384 d }, freeCtr := s.freeCtr + 1 }
  else if dst = 4 then { s with fuses := { f with keyDestroyed := true, identityKey := BitVec.allOnes 384 } }
  else if src = 1 then { s with fuses := { f with cert := cert } }
  else { s with fuses := f }

end Sys2Proof.Machine
end

