-- ==== Sys2Proof/Machine/Resets.lean ====
section
/-! DEFINITION. Supplies, resets, clocks and start-up, the life-cycle change, boundary scan and SMBus (R438 to R447,
R465 to R471, R491, R510 to R520, R524, R525), with their rows. -/

namespace Sys2Proof.Machine

/-! ### Alerts (R519, R520) -/

/-- The input is in range: 40 to 60 V in units of 10 mV. -/
def vinOk (s : State) : Bool := decide (4000 ≤ s.pins.vin.toNat) && decide (s.pins.vin.toNat ≤ 6000)

/-- ALERTS as the conditions now stand (R519). -/
def alertsNow (s : State) : Nat :=
  bit (s.pins.railsOn && decide (1600 ≤ s.pins.tj.toNat)) + 2 * bit s.pins.trip + 4 * bit s.pins.railFault +
    8 * bit (s.clk.onOsc && s.clk.stable) + 16 * bit (!vinOk s)

/-- ALERTS evaluated anew while VAUX is up; a bit that rises asserts ALERT_N (R520). -/
def updateAlerts (s : State) : State :=
  if !s.pins.vauxUp then s
  else
    let n := alertsNow s
    let rise := (List.range 5).any fun i => n.testBit i && !bitOf s.pins.alerts i
    { s with pins := { s.pins with alerts := BitVec.ofNat 5 n, alert := s.pins.alert || rise } }

/-! ### Rails and resets (R438, R447, R471, R524, R525) -/

/-- Every pin that holds start-up is high and the rails are on (R439, R524). -/
def mayStart (p : PinSt) : Bool := p.pwrGood && p.perstN && p.modResetN && p.railsOn

/-- The clock before step 1 of R439 may begin. -/
def ClockSt.held : ClockSt := { ClockSt.initial with running := false, startStep := 0 }

/-- Step 1 of R439 once nothing holds it. -/
def tryStart (s : State) : State :=
  if mayStart s.pins && s.clk.startStep == 0 then { s with clk := ClockSt.initial } else s

/-- Everything inside the module as a reset leaves it: memories wiped, commands abandoned, job and fabric state gone
(R6, R253, R398, R438). Fuses, pins, host memory, the queue and the model's own counter stay. -/
def clearInside (s : State) (cause : Nat) : State :=
  let ident := { IdentSt.initial cause with nextRate := if cause = 0 then 12800 else s.ident.nextRate }
  { s with
    ident := ident
    mbox := []
    evq := EvqSt.initial
    obs := ObsSt.initial
    mem := MemSt.wiped
    fab := FabSt.initial
    sealer := SealSt.none
    buddy := BuddySt.none
    restore := none
    job := JobSt.none
    pow := PowerSt.initial
    step := StepSt.none
    eng := EngSt.none
    assay := AssaySt.none }

/-- PCIe configuration after a reset of cause 0 to 3, with the link as given; host memory and the record of what the
host saw stay (R433, R438). -/
def clearPcie (s : State) (link : Bool) : State :=
  let p := { PcieSt.initial with linkUp := link, hostMem := s.pcie.hostMem, signals := s.pcie.signals,
                                 readOut := s.pcie.readOut, readEp := s.pcie.readEp }
  { s with pcie := p }

/-- A reset of cause 0, 1 or 2: trip latch and rail fault are cleared, rails that are off ramp again, start-up waits for
the pins, and after a trip for the sensors (R438, R447, R471). -/
def hardReset (s : State) (cause : Nat) : State :=
  let p := s.pins
  let p := { p with hotWait := p.hotWait || p.trip, trip := false, railFault := false,
                    ramping := !p.railsOn && p.pwrGood && p.vauxUp && vinOk s }
  let s := clearPcie (clearInside { s with pins := p } cause) false
  { s with clk := if mayStart p then ClockSt.initial else ClockSt.held }

/-- A reset of cause 3, 4 or 5: the clocks run on, the timebase starts at zero, and start-up resumes at step 3, or goes on where steps 1
and 2 are still under way; none while the rails are off (R6, R438, R439, R471). -/
def softReset (s : State) (cause : Nat) : State :=
  if stopped s then s
  else
    let old := s.ident
    let s' := clearInside s cause
    let s' := if cause = 3 then clearPcie s' s.pcie.linkUp
      else { s' with ident := { s'.ident with dmaBase := old.dmaBase } }
    let s' := if cause = 5 then { s' with ident := { s'.ident with imageAddr := old.imageAddr, imageLen := old.imageLen } } else s'
    { s' with clk := { s.clk with periods := 0, startStep := min s.clk.startStep 3, latch := none } }

/-- Every rail except VAUX goes off: every block stops and the test access port with it, the link drops, every port is DOWN (R6, R447,
R471, R510, R525). -/
def railsOff (s : State) : State :=
  { s with
    pins := { s.pins with railsOn := false, ramping := false, tap := .bypass }
    pcie := { s.pcie with linkUp := false }
    fab := { s.fab with ports := [], txq := [] }
    clk := { s.clk with running := false, startStep := 0 }
    ident := { s.ident with stage := 1 } }

/-! ### Rows of supplies and resets -/

/-- PWR_GOOD rises: a reset of cause 0 (R438, R524). -/
def powerUp (s : State) : State := hardReset { s with pins := { s.pins with pwrGood := true, tjMax := 0 } } 0

/-- POWER_ON (R438, R524): ignored until VAUX is up. -/
def execPowerOn (s : State) : Host.Outcome State Fault Refusal :=
  .next (if s.pins.vauxUp && !s.pins.pwrGood then updateAlerts (powerUp s) else s)

/-- PWR_GOOD_DEASSERT (R525): a power-off that loses all state; the trip latch and RAIL_FAULT stand. -/
def execPwrGoodDeassert (s : State) : Host.Outcome State Fault Refusal :=
  .next (
    if !s.pins.pwrGood then s
    else
      let s := railsOff { s with pins := { s.pins with pwrGood := false } }
      let s := clearPcie (clearInside s s.ident.resetCause) false
      updateAlerts { s with clk := ClockSt.held })

/-- PERST_N_ASSERT (R438): cause 1, the link down while asserted; with MOD_RESET_N asserted too the cause is 1 (R445). -/
def execPerstNAssert (s : State) : Host.Outcome State Fault Refusal :=
  .next (
    if !s.pins.perstN then s
    else
      let s := { s with pins := { s.pins with perstN := false } }
      if s.pins.pwrGood && s.pins.vauxUp then updateAlerts (hardReset s 1) else s)

/-- PERST_N_DEASSERT (R438, R439). -/
def execPerstNDeassert (s : State) : Host.Outcome State Fault Refusal :=
  .next (updateAlerts (tryStart { s with pins := { s.pins with perstN := true } }))

/-- MOD_RESET_N_ASSERT (R438): cause 2, unless PERST_N already holds the module in reset (R445). -/
def execModResetNAssert (s : State) : Host.Outcome State Fault Refusal :=
  .next (
    if !s.pins.modResetN then s
    else
      let s := { s with pins := { s.pins with modResetN := false } }
      if s.pins.pwrGood && s.pins.vauxUp && s.pins.perstN then updateAlerts (hardReset s 2) else s)

/-- MOD_RESET_N_DEASSERT (R438, R439). -/
def execModResetNDeassert (s : State) : Host.Outcome State Fault Refusal :=
  .next (updateAlerts (tryStart { s with pins := { s.pins with modResetN := true } }))

/-- HOT_RESET (R438): the link stays up. -/
def execHotReset (s : State) : Host.Outcome State Fault Refusal :=
  .next (if s.pcie.linkUp then updateAlerts (softReset s 3) else s)

/-- FUNCTION_LEVEL_RESET (R438). -/
def execFunctionLevelReset (s : State) : Host.Outcome State Fault Refusal :=
  .next (if s.pcie.linkUp then updateAlerts (softReset s 3) else s)

/-- FOREMAN_WATCHDOG (R438): only a Foreman that runs has a watchdog to expire. -/
def execForemanWatchdog (s : State) : Host.Outcome State Fault Refusal :=
  .next (if foremanUp s then updateAlerts (softReset s 4) else s)

/-- VAUX_UP (R517, R519, R524, R530): the straps are sampled; PWR_GOOD already high counts as rising now. -/
def execVauxUp (straps : BitVec 6) (vin : BitVec 16) (s : State) : Host.Outcome State Fault Refusal :=
  .next (
    if s.pins.vauxUp then s
    else
      let s := { s with pins := { s.pins with vauxUp := true, slotId := straps, vin := vin, tjMax := 0, alerts := 0, alert := false } }
      updateAlerts (if s.pins.pwrGood then powerUp s else s))

/-- VIN_REMOVAL (R525, R530): VAUX falls, the trip latch is lost, SMBus stops, all state is lost. -/
def execVinRemoval (s : State) : Host.Outcome State Fault Refusal :=
  .next (
    let s := railsOff s
    let s := clearPcie (clearInside s s.ident.resetCause) false
    { s with clk := ClockSt.held,
             pins := { s.pins with vauxUp := false, vin := 0, trip := false, hotWait := false, railFault := false, tj := 0,
                                   tjMax := 0, alerts := 0, alert := false, smbusOut := [] } })

/-- VIN_OUT_OF_RANGE (R447): more than 1 ms outside 40 to 60 V. -/
def execVinOutOfRange (vin : BitVec 16) (s : State) : Host.Outcome State Fault Refusal :=
  .next (
    if !s.pins.vauxUp then s
    else
      let s := { s with pins := { s.pins with vin := vin } }
      updateAlerts (if vinOk s then s
        else if s.pins.railsOn || s.pins.ramping then railsOff { s with pins := { s.pins with railFault := true } }
        else s))

/-- RAIL_FAULT (R447). -/
def execRailFault (s : State) : Host.Outcome State Fault Refusal :=
  .next (if s.pins.railsOn then updateAlerts (railsOff { s with pins := { s.pins with railFault := true } }) else s)

/-- THERM_TRIP (R471): a sensor at 115 °C or above; the comparator needs VAUX alone. -/
def execThermTrip (reading : BitVec 16) (s : State) : Host.Outcome State Fault Refusal :=
  .next (
    if s.pins.vauxUp && decide (1840 ≤ reading.toNat) then
      updateAlerts (railsOff { s with pins := { s.pins with trip := true } })
    else s)

/-- RAILS_ON (R524): the ramp completes; step 1 begins once the pins are high. -/
def execRailsOn (s : State) : Host.Outcome State Fault Refusal :=
  .next (
    if s.pins.ramping then updateAlerts (tryStart { s with pins := { s.pins with railsOn := true, ramping := false } })
    else s)

/-! ### Clocks (R441, R465 to R468) -/

/-- Step 3 of R439 begins; the timebase starts at zero there after a reset of cause 3 to 5 (R442). -/
def enterStep3 (s : State) : State :=
  let c := { s.clk with startStep := 3 }
  { s with clk := if 3 ≤ s.ident.resetCause then { c with periods := 0, latch := none } else c }

/-- The crystal is declared stable after 16 windows, and the clocked domains move to it; a restart after a trip waits at
step 1 (R439, R466, R471). -/
def tryStable (s : State) : State :=
  let c := s.clk
  if c.startStep = 0 ∨ 3 ≤ c.startStep ∨ s.pins.hotWait then s
  else if c.missed then enterStep3 s
  else if 16 ≤ c.goodWindows then enterStep3 { s with clk := { c with stable := true, onOsc := false } }
  else s

/-- Failover to the internal oscillator (R467): ON_OSC, EV_CLOCK_FAILOVER (or due when the Foreman starts, R441), every
port DOWN, a running job holds with cause CLOCK. -/
def failover (s : State) (kind : Nat) : State :=
  let s := { s with clk := { s.clk with onOsc := true, lastFail := kind } }
  let s := if foremanUp s then raise s { code := 0x7001, src := 9, a0 := kind, nmi := true }
    else { s with clk := { s.clk with dueEvent := some kind } }
  let s := allPortsDown s
  if s.job.state = 2 then enterHold s 7 else s

/-- A failure of the crystal (R466): before stability it only delays step 2; after a failover it changes nothing. -/
def clockFailure (s : State) (kind : Nat) : State :=
  if !s.clk.stable then { s with clk := { s.clk with goodWindows := 0, lastFail := kind } }
  else if s.clk.onOsc then s
  else failover s kind

/-- CLOCK_MONITOR_WINDOW (R466): 973 to 1,075 edges are no failure. -/
def execClockMonitorWindow (edges : Nat) (s : State) : Host.Outcome State Fault Refusal :=
  .next (
    if !s.clk.running then s
    else if edges < 973 ∨ 1075 < edges then updateAlerts (clockFailure s 0)
    else updateAlerts (tryStable { s with clk := { s.clk with goodWindows := min 16 (s.clk.goodWindows + 1) } }))

/-- CRYSTAL_SILENCE (R466): no edge in 64 internal periods. -/
def execCrystalSilence (s : State) : Host.Outcome State Fault Refusal :=
  .next (if s.clk.running then updateAlerts (clockFailure s 1) else s)

/-- CRYSTAL_TIMEOUT (R440, R441): 20 ms from the oscillator's start without a stable crystal. -/
def execCrystalTimeout (s : State) : Host.Outcome State Fault Refusal :=
  .next (
    if s.clk.running && decide (s.clk.startStep < 3) && !s.clk.stable then
      let s := advanceTo s 20000000
      updateAlerts (tryStable { s with clk := { s.clk with missed := true, dueEvent := some s.clk.lastFail } })
    else s)

/-! ### Start-up (R231, R232, R439, R441) -/

/-- LPDDR6_TRAINING_COMPLETE (R231, R232, R439): step 4, the wipe, begins. -/
def execLpddr6TrainingComplete (failed : BitVec 64) (s : State) : Host.Outcome State Fault Refusal :=
  .next (
    if s.clk.startStep != 3 || stopped s then s
    else
      { s with clk := { s.clk with startStep := 4 }, mem := { MemSt.wiped with wiping := true },
               ident := { s.ident with rate := s.ident.nextRate, chFail := failed } })

/-- The wipe of a life-cycle change completes: the timebase restarts, STAGE becomes 2, the reply is written (R491). -/
def lifecycleDone (s : State) (m : Nat) : State :=
  let s := { s with mem := MemSt.wiped, obs := ObsSt.initial, ident := { s.ident with stage := 2 },
                    clk := { s.clk with periods := 0, latch := none },
                    evq := { s.evq with fullSince := s.evq.fullSince.map fun _ => 0 },
                    pow := { s.pow with windowAt := 0, hotSince := s.pow.hotSince.map fun _ => 0,
                                        coolSince := s.pow.coolSince.map fun _ => 0 },
                    fab := { s.fab with lastFrame := [], noRoute := [] } }
  finishCommand s (requestOf s m).1 (done [])

/-- WIPE_COMPLETE (R232, R254, R405, R439, R491). -/
def execWipeComplete (s : State) : Host.Outcome State Fault Refusal :=
  .next (
    if !s.mem.wiping || stopped s then s
    else
      match (List.range 4).find? fun m => (boxAt s m).inflight == some .lifecycle with
      | some m => lifecycleDone s m
      | none =>
        let s := { s with mem := MemSt.wiped }
        if s.ident.chFail.toNat ≠ 0 then { s with ident := { s.ident with stage := 3 } }
        else
          let s := { s with ident := { s.ident with stage := 0 }, clk := { s.clk with startStep := 5 } }
          if s.ident.resetCause = 5 then bootReload s else s)

/-- FOREMAN_START (R439 step 7, R441): STAGE 2, EV_READY, and a failover that was due. -/
def execForemanStart (s : State) : Host.Outcome State Fault Refusal :=
  .next (
    if s.ident.stage != 0 || !s.ident.verified || stopped s then s
    else
      let s := { s with clk := { s.clk with startStep := 7 },
                        ident := { s.ident with stage := 2, verified := false, fwVersion := s.ident.imageVersion },
                        pow := { s.pow with windowAt := timebase s } }
      let s := raise s { code := 1, src := 0, argS := lifecycleOf s.fuses, a0 := s.ident.fwVersion.toNat }
      match s.clk.dueEvent with
      | none => s
      | some k => raise { s with clk := { s.clk with dueEvent := none } } { code := 0x7001, src := 9, a0 := k, nmi := true })

/-! ### Life-cycle change and firmware (R405, R491, R513) -/

/-- EXTEST, CLAMP or HIGHZ is loaded. -/
def scanHolds : ScanInstr → Bool
  | .extest => true
  | .clamp => true
  | .highz => true
  | .bypass => false
  | .samplePreload => false
  | .other => false

/-- Steps 1 to 3 of R491; the wipe of step 4 then runs and the reply follows it. -/
def startTransition (s : State) (src dst : Nat) (cert : List Byte) : State × Reply :=
  let s := allPortsDown s
  let s := { s with ident := { s.ident with stage := 1, fabricAddr := 0xFFFF },
                    fab := { s.fab with routes := [], groups := [], txq := [], noRoute := [] } }
  let s := blowFuses s src dst cert
  ({ s with mem := { MemSt.wiped with wiping := true } }, { busy := some .lifecycle })

/-- LIFECYCLE (R488 to R491). -/
def cmdLifecycle : Command := fun s r =>
  let src := lifecycleOf s.fuses
  let dst := (byteAt r.payload 0).toNat
  let len := leAt r.payload 16 4
  match transition src dst with
  | none => (s, refuse REFUSE_LIFECYCLE 488 0 0)
  | some auth =>
    if 16 ≤ s.fuses.lcLog.length ∧ dst ≠ 4 then (s, refuse REFUSE_LIFECYCLE 490 0 0)
    else if !auth then
      if len = 0 then startTransition s src dst [] else (s, refuse REFUSE_LIFECYCLE 488 0 0)
    else if !canMaster s then (s, status DMA_FAULT)
    else
      let a := hostGet s (pcieAddr s (leAt r.payload 8 8)) (min len 1256)
      match authBad s src dst len a with
      | some o => (s, refuse REFUSE_AUTH 490 (o + 1) 0)
      | none => startTransition s src dst (slice a 136 (leAt a 24 2))

/-- Leaving Manufacture, the life-cycle state `before`, resets the scan port, which resets the module out of EXTEST (R512, R513). -/
def afterLifecycle (before : Nat) (s : State) : State :=
  if before = 1 ∧ lifecycleOf s.fuses ≠ 1 then
    let held := scanHolds s.pins.tap
    let s := { s with pins := { s.pins with tap := .bypass } }
    if held then updateAlerts (hardReset s 2) else s
  else s

/-- A FW_LOAD that a running Foreman took with success resets the module with cause 5 once its reply is written (R405). -/
def afterFwLoad (taken : Bool) (m : Nat) (s : State) : State :=
  let ok := byteAt (windowGet (boxAt s m) 8 1) 0 == 0 && (boxAt s m).state == 2
  if taken && ok then updateAlerts (softReset s 5) else s

/-- LIFECYCLE (R491). -/
def execLifecycle (rq : MbReq) (s : State) : Host.Outcome State Fault Refusal :=
  .next (afterLifecycle (lifecycleOf s.fuses) (mailboxRow 0x0003 cmdLifecycle rq s))

/-- FW_LOAD (R405, R479). -/
def execFwLoad (rq : MbReq) (s : State) : Host.Outcome State Fault Refusal :=
  .next (afterFwLoad (hostReaches s && (boxAt s rq.mailbox.val).state != 1 && foremanUp s) rq.mailbox.val
    (mailboxRow 0x0004 cmdFwLoad rq s))

/-- ATTEST (R485). -/
def execAttest (rq : MbReq) (s : State) : Host.Outcome State Fault Refusal :=
  .next (mailboxRow 0x0002 cmdAttest rq s)

/-! ### Boundary scan and SMBus (R510 to R512, R518 to R520) -/

/-- BSCAN_INSTRUCTION_LOAD (R510 to R512): only in Manufacture; leaving EXTEST, CLAMP or HIGHZ resets the module with
cause 2. An unknown code selects BYPASS (log 25). -/
def execBscanInstructionLoad (ins : ScanInstr) (s : State) : Host.Outcome State Fault Refusal :=
  .next (
    if lifecycleOf s.fuses ≠ 1 ∨ stopped s then s
    else
      let ins := if ins = .other ∨ (scanHolds ins ∧ s.job.state ≠ 0) then .bypass else ins
      let leaves := scanHolds s.pins.tap && s.pins.tap != ins
      let s := { s with pins := { s.pins with tap := ins } }
      if leaves then updateAlerts (hardReset s 2) else s)

/-- The SMBus status block (R519). -/
def statusBlock (s : State) : BitVec 128 :=
  let p := s.pins
  packRec 128 [(5, 0, p.slotId.toNat), (8, 8, bit p.railsOn), (9, 9, bit p.trip), (10, 10, bit p.railFault),
    (11, 11, bit s.pow.throttle), (12, 12, bit s.clk.onOsc), (23, 16, if p.railsOn then s.ident.stage else 0),
    (31, 24, bit s.fuses.order512), (47, 32, p.vin.toNat), (63, 48, p.pinWatts.toNat),
    (79, 64, if p.railsOn then p.tj.toNat else 0), (95, 80, p.tjMax.toNat), (100, 96, p.alerts.toNat)]

/-- SMBUS_BLOCK_READ (R518, R519): answered whenever VAUX is up. -/
def execSmbusBlockRead (s : State) : Host.Outcome State Fault Refusal :=
  .next (
    if s.pins.vauxUp then { s with pins := { s.pins with smbusOut := bytesOfNat 16 (statusBlock s).toNat } } else s)

/-- ALERT_RESPONSE_ADDRESS (R520): while ALERT_N is asserted the module answers 0x5C and releases it. -/
def execAlertResponseAddress (s : State) : Host.Outcome State Fault Refusal :=
  .next (
    if s.pins.vauxUp && s.pins.alert then
      { s with pins := { s.pins with smbusOut := [0x5C], alert := false } }
    else s)

end Sys2Proof.Machine
end

