-- ==== Sys2Proof/Machine/Power.lean ====
section
/-! DEFINITION. Operating points, the Purse, the thermal limit and the gate tree, with their rows (R10, R11, R416, R449 to
R463, R469 to R471). -/

namespace Sys2Proof.Machine

/-! ### The operating point (R10, R11, R449, R450) -/

/-- The lowest of host request, Purse limit and thermal limit (R450). -/
def targetPoint (s : State) : Nat := min s.pow.opHost (min s.pow.opPurse s.pow.opThermal)

/-- The source named for point o: a limit that holds it, thermal before Purse, else the host (R450, log 33). -/
def pointSource (s : State) (o : Nat) : Nat :=
  if s.pow.opThermal = o ∧ o < 2 then 2 else if s.pow.opPurse = o ∧ o < 2 then 1 else 0

/-- The operating point becomes o and VCORE ramps to it (R449, R450). -/
def movePoint (s : State) (o : Nat) : State :=
  let s := { s with pow := { s.pow with opNow := o, ramp := true } }
  raise (trace s 10 0 0 0 o) { code := 0x7004, src := 8, argS := o, a0 := pointSource s o }

/-- The target point takes effect: a lower one at once, a higher one only where `free` holds, at a boundary or with no step
running (R449). -/
def settlePoint (s : State) (free : Bool) : State :=
  let o := targetPoint s
  if o < s.pow.opNow ∨ (free ∧ s.pow.opNow < o) then movePoint s o else s

/-! ### Admission of an operating point and a cap (R416) -/

/-- Plan p at operating point o under a cap, with its figures: the code of the first check that fails, what is required and what is
allowed (R416). -/
def planFails (p : Plan) (o cap : Nat) : Option (Nat × Nat × Nat) :=
  let guar := p.guar.getD o 0
  let est := p.est.getD o 0
  if p.deadline ≠ 0 ∧ p.deadline < guar then some (REFUSE_ADMIT_TIME, guar, p.deadline)
  else if p.energy ≠ 0 ∧ p.energy < est then some (REFUSE_ADMIT_ENERGY, est, p.energy)
  else if cap * guar < est * 1000000 then some (REFUSE_ADMIT_POWER, ceilDiv (est * 1000000) (max guar 1), cap)
  else none

/-- The refusal of the first of some plans that fails; which resource limits it is free (R395, R415, R416, log 34). -/
def admitRefusal (s : State) (plans : List (Nat × Plan)) (o cap : Nat) : State × Option Reply :=
  match plans.findSome? fun e => (planFails e.2 o cap).map fun x => (e.1, x) with
  | none => (s, none)
  | some (p, code, need, allowed) =>
    let (s, lim) := freeBelow s 10
    (s, some (refuseWith code 416 0 p { limit := lim + 1, required := need, allowed := allowed, plan := p }))

/-- The admitted plans of the job. -/
def admittedPlans (s : State) : List (Nat × Plan) := if s.job.admitted then s.job.plans.filter fun p => p.2.admitted else []

/-- A change to operating point o or cap: refused where an admitted plan fails and FORCE is 0; the flag says that it is forced
(R416). -/
def checkChange (s : State) (o cap : Nat) (force : Bool) : State × Option Reply × Bool :=
  match admitRefusal s (admittedPlans s) o cap with
  | (_, none) => (s, none, false)
  | (s', some rep) => if force then (s, none, true) else (s', some rep, false)

/-- The host request o is in force; `forced` is kept for the steps that follow (R416, R450). -/
def applyOp (s : State) (o : Nat) (forced : Bool) : State :=
  { s with pow := { s.pow with opHost := o, forced := forced } }

/-- The cap is in force (R455). -/
def applyCap (s : State) (cap : Nat) (forced : Bool) : State :=
  { s with pow := { s.pow with cap := cap, forced := forced } }

/-- A change joins those that wait for the next boundary (R401). -/
def putDue (s : State) (c : BoundaryCmd) : State := { s with job := { s.job with due := s.job.due ++ [c] } }

/-- OP_SET (R10, R401, R416): at once while no step runs, else at the next boundary. -/
def cmdOpSet : Command := fun s r =>
  let o := (byteAt r.payload 0).toNat
  match checkChange s o s.pow.cap (byteAt r.payload 1 == 1) with
  | (s, some rep, _) => (s, rep)
  | (s, none, forced) =>
    if stepRuns s then (putDue s (.opSet o forced), done [])
    else (settlePoint (applyOp s o forced) true, done [])

/-- POWER_CAP (R401, R416, R455). -/
def cmdPowerCap : Command := fun s r =>
  let cap := leAt r.payload 0 2
  match checkChange s s.pow.opNow cap (byteAt r.payload 2 == 1) with
  | (s, some rep, _) => (s, rep)
  | (s, none, forced) =>
    if stepRuns s then (putDue s (.powerCap cap forced), done []) else (applyCap s cap forced, done [])

def execOpSet (rq : MbReq) (s : State) : Host.Outcome State Fault Refusal := .next (mailboxRow 0x0040 cmdOpSet rq s)
def execPowerCap (rq : MbReq) (s : State) : Host.Outcome State Fault Refusal := .next (mailboxRow 0x0041 cmdPowerCap rq s)

/-! ### The Purse at a boundary (R455, R456) -/

/-- P_plan(o) exceeds the cap: ρ × E_est(o) / (T_guar(o) × τ), with τ = time / guar (R456). -/
def overCap (s : State) (p : Plan) (o time guar : Nat) : Bool :=
  let (time, guar) := if time = 0 ∨ guar = 0 then (1, 1) else (time, guar)
  decide (s.pow.cap * s.pow.rhoDen * p.guar.getD o 0 * time < s.pow.rhoNum * p.est.getD o 0 * 1000000 * guar)

/-- The Purse's limit for the next step, whose plan is that of the next dispatch, or of the step that ends where none waits; τ
compares that step's time up to its boundary with its guaranteed time (R456, log 35). -/
def purseLimit (s : State) : State :=
  let pl := match s.job.dispatches with | d :: _ => d.plan | [] => s.step.plan
  let time := timebase s - s.step.start
  let guar := match mapFind s.job.plans s.step.plan with | some p => p.guar.getD s.pow.opNow 0 | none => 0
  let limit := match (if s.job.admitted then mapFind s.job.plans pl else none) with
    | none => 2
    | some p => if !overCap s p 2 time guar then 2 else if !overCap s p 1 time guar then 1 else 0
  let joules := (counterAt s 0xEB0).toNat - s.pow.energyAtBegin
  let s := { s with pow := { s.pow with opPurse := limit } }
  if limit < s.pow.opHost then
    raise s { code := 0x7003, src := 8, argS := 0, a0 := joules * 1000 / max time 1, a1 := s.pow.cap }
  else s

/-! ### Counted and measured energy (R451 to R454) -/

/-- Linear interpolation in a table of `n` equal intervals from lo to hi, at x; beyond the ends the end point (R451). -/
def interpolate (n lo hi x : Nat) (f : Nat → Nat) : Nat :=
  let x := min (max x lo) hi
  let j := min ((x - lo) * n / (hi - lo)) (n - 1)
  let d := (x - lo) * n - j * (hi - lo)
  ((f j : Int) + ((f (j + 1) : Int) - (f j : Int)) * (d : Int) / ((hi - lo : Nat) : Int)).toNat

/-- Junction temperature of a node, 1/16 °C. -/
def nodeTemp (s : State) (level index : Nat) : Nat :=
  (s.pins.sensors.getD (Config.nodeSensor level index % 144) s.pins.tj).toNat

/-- Static energy in aJ of a node that is on for d ns (R451). -/
def staticEnergy (s : State) (level index d : Nat) : Nat :=
  let n := if level = 3 then 0 else 1
  let on := if level = 3 then workshopOn s index else gateAt s 2 index == 1 && gateAt s 1 (index / 8) == 1
  if on then 1000 * d * interpolate 7 480 1680 (nodeTemp s level index) (Config.staticPower s.pow.opNow n) else 0

/-- Energy in aJ of the switching classes `cls` counted at a unit. -/
def switching (s : State) (cls : List Nat) (unit : Nat) : Nat :=
  cls.foldl (fun n c => n + mapGet s.pow.events (256 * c + unit) 0 * Config.coefficient s.pow.opNow c) 0

/-- Energy in aJ of k units of time class `cls` over d ns. -/
def background (s : State) (cls k d : Nat) : Nat := 1000 * d * k * Config.coefficient s.pow.opNow cls

/-- Ports that are UP. -/
def portsUp (s : State) : Nat := ((List.range 24).filter (portUp s)).length

/-- Channels that passed their training (R232). -/
def channelsUp (s : State) : Nat := ((List.range 64).filter fun c => !bitOf s.ident.chFail c).length

/-- Energies in aJ before conversion: per workshop, per guild, and of memory, fabric and hub, over d ns (R451). -/
def windowEnergy (s : State) (d : Nat) : List Nat × List Nat × List Nat :=
  let sum := fun (cls n : Nat) => (List.range n).foldl (fun a u => a + switching s [cls] u) 0
  ((List.range 128).map fun w => switching s [0, 1, 2, 3, 4, 5] w + staticEnergy s 3 w d,
   (List.range 16).map fun g => switching s [7, 8] g + staticEnergy s 2 g d,
   [sum 10 64 + sum 11 64 + background s 12 (channelsUp s) d, background s 13 (portsUp s) d + switching s [14] 0,
    background s 15 1 d])

/-- aJ as µJ of input, at an efficiency of eta / 2^16. -/
def toMicro (eta aj : Nat) : Nat := aj * 65536 / max eta 1 / 10 ^ 12

/-- ρ limited to [0.80, 1.25], from the energies of the last windows; with no counted energy it stands (R454). -/
def rhoOf (p : PowerSt) : Nat × Nat :=
  let m : Nat := (p.windows.map (·.1)).sum
  let c : Nat := (p.windows.map (·.2)).sum
  if c = 0 then (p.rhoNum, p.rhoDen)
  else if 5 * c < 4 * m then (5, 4)
  else if 5 * m < 4 * c then (4, 5)
  else (m, c)

/-- The energies of a window of d ns in µJ: workshops, quadrants, and the rest, at the converters' efficiency for
the mean load in mW, against eight points from 100 W to 1,250 W (R454). -/
def windowMicro (s : State) (d : Nat) : List Nat × List Nat × List Nat :=
  let e := windowEnergy s d
  let total := (e.1 ++ e.2.1 ++ e.2.2).sum
  let eta := interpolate 7 100000 1250000 (total / max (d * 1000000) 1) Config.efficiency
  (e.1.map (toMicro eta), e.2.1.map (toMicro eta), e.2.2.map (toMicro eta))

/-- The counters from `base` take the amounts of a list. -/
def addCounters (s : State) (base : Nat) (l : List Nat) : State :=
  (List.range l.length).foldl (fun s i => addCounter s (base + i) (l.getD i 0)) s

/-- The energy counters take a window: per workshop, per quadrant, per domain, and the measured energy (R451, R454). -/
def countEnergy (s : State) (w : List Nat × List Nat × List Nat) (m : Nat) : State :=
  addCounter (addCounters (addCounters (addCounters s 0xC00 w.1) 0xE30 w.2.1) 0xEB2
    (w.1.sum :: w.2.1.sum :: w.2.2)) 0xEB0 m

/-- The windows kept take one of measured energy m and modelled energy d that ends now, and ρ follows them, with its
counter, its range count and its trace record (R454, R497). -/
def takeWindow (s : State) (m d : Nat) : State :=
  let p := { s.pow with windows := ((m, d) :: s.pow.windows).take 16, events := [], windowAt := timebase s }
  let r := rhoOf p
  let s := setCounter { s with pow := { p with rhoNum := r.1, rhoDen := r.2 } } 0xEB1 (r.1 * 65536 / max r.2 1)
  let s := if 10 * r.1 < 9 * r.2 ∨ 11 * r.2 < 10 * r.1 then bump s 0xEB7 else s
  trace s 9 0 0 m (r.1 * 65536 / max r.2 1)

/-- The line hops of each guild's ring since the last window: a free value, since no rule says how the ring's stations follow each other
(R175, R451; log 50). -/
def ringHops (s : State) : State :=
  (List.range 16).foldl (fun s g => let (s, k) := freeBelow s (2 ^ 48); countEvents s 8 g k) s

/-- The end of a reconciliation window with measured energy m in µJ (R454, R497). -/
def reconcile (s : State) (m : Nat) : State :=
  let s := ringHops (advanceTo s (s.pow.windowAt + 10000000))
  let w := windowMicro s (timebase s - s.pow.windowAt)
  takeWindow (countEnergy s w m) m (w.1.sum + w.2.1.sum + w.2.2.sum)

/-- RECONCILIATION_WINDOW (R454): the Foreman ends a window. -/
def execReconciliationWindow (measuredMicroJ : Nat) (s : State) : Host.Outcome State Fault Refusal :=
  .next (if foremanUp s && !stopped s then reconcile s measuredMicroJ else s)

/-- A 1 ms window during a step against the cap: dispatch is paused, or the pause ends (R457). -/
def purseWindow (s : State) (watts : Nat) : State :=
  let p := s.pow
  if p.pausePurse then
    if watts * 100 ≤ 99 * p.cap then { s with pow := { p with pausePurse := false } } else s
  else if stepRuns s && decide (p.cap < watts) then
    let s := { s with pow := { p with pausePurse := true, pauseRaised := true } }
    if p.pauseRaised then s else raise s { code := 0x7003, src := 8, argS := 1, a0 := watts, a1 := p.cap }
  else s

/-- POWER_WINDOW (R453, R457, R519): the measured input power of a 1 ms window. -/
def execPowerWindow (watts : Nat) (s : State) : Host.Outcome State Fault Refusal :=
  .next (
    if !s.pins.vauxUp then s
    else
      let s := { s with pins := { s.pins with pinWatts := BitVec.ofNat 16 watts } }
      if foremanUp s && !stopped s then purseWindow s watts else s)

/-- VCORE_RAMP_COMPLETE (R449): the rates of the operating point hold. -/
def execVcoreRampComplete (s : State) : Host.Outcome State Fault Refusal :=
  .next (if stopped s then s else { s with pow := { s.pow with ramp := false } })

/-! ### Temperature (R469 to R471) -/

/-- T_j has reached 100 °C: the limit drops one point below the point in force, at once (R470). -/
def tooHot (s : State) : State :=
  let p := { s.pow with opThermal := s.pow.opNow - 1, throttle := true, hotSince := some (timebase s), coolSince := none }
  settlePoint (raise { s with pow := p } { code := 0x7002, src := 10, argS := 1, a0 := s.pins.tj.toNat }) false

/-- The thermal limit follows a new T_j; it acts once the Foreman runs (R470, log 36). -/
def followHeat (s : State) : State :=
  let tj := s.pins.tj.toNat
  if !foremanUp s then s
  else if 1600 ≤ tj then (if s.pow.hotSince.isSome then { s with pow := { s.pow with coolSince := none } } else tooHot s)
  else
    let cool := if tj ≤ 1520 then s.pow.coolSince.or (some (timebase s)) else none
    { s with pow := { s.pow with hotSince := none, pauseThermal := false, coolSince := cool } }

/-- A sample of every sensor, 1/16 °C: T_j, its counters, the thermal limit, ALERTS, and the wait after a trip (R469 to R471,
R519). -/
def sample (s : State) (readings : List (BitVec 16)) : State :=
  let tj := readings.foldl (fun m x => max m x.toNat) 0
  let pins := { s.pins with sensors := readings, tj := BitVec.ofNat 16 tj, tjMax := BitVec.ofNat 16 (max tj s.pins.tjMax.toNat) }
  let s := setCounter (setCounter { s with pins := pins } 0xEB8 tj) 0xEB9 (max tj (counterAt s 0xEB9).toNat)
  let s := updateAlerts (followHeat s)
  if s.pins.hotWait && decide (tj < 1600) then tryStable { s with pins := { s.pins with hotWait := false } } else s

/-- THERMAL_SAMPLE (R469): 144 readings, one for each sensor; the monitor needs the rails. -/
def execThermalSample (readings : List (BitVec 16)) (s : State) : Host.Outcome State Fault Refusal :=
  .next (if s.pins.vauxUp && s.pins.railsOn && readings.length == 144 then sample s readings else s)

/-- THERMAL_STEP_DOWN (R470): 10 ms more at or above 100 °C. -/
def execThermalStepDown (s : State) : Host.Outcome State Fault Refusal :=
  .next (
    match (if foremanUp s then s.pow.hotSince else none) with
    | none => s
    | some t =>
      let s := advanceTo s (t + 10000000)
      let pause := s.pow.opNow == 0
      let p := { s.pow with hotSince := some (timebase s), opThermal := s.pow.opThermal - 1, pauseThermal := s.pow.pauseThermal || pause }
      settlePoint { s with pow := p } false)

/-- THERMAL_RELEASE (R470, R449): 100 ms at or below 95 °C. -/
def execThermalRelease (s : State) : Host.Outcome State Fault Refusal :=
  .next (
    match (if foremanUp s && s.pow.throttle then s.pow.coolSince else none) with
    | none => s
    | some t =>
      let s := advanceTo s (t + 100000000)
      let s := { s with pow := { s.pow with opThermal := 2, throttle := false } }
      settlePoint (raise s { code := 0x7002, src := 10, argS := 0, a0 := s.pins.tj.toNat }) (!stepRuns s))

/-! ### The gate tree (R459 to R463) -/

/-- A node takes a state, with its trace record (R460, R502). -/
def setGate (s : State) (level index v : Nat) : State :=
  let s := { s with pow := { s.pow with gates := sparseSet 1 s.pow.gates (1024 * level + index) v } }
  trace s 10 1 level index v

/-- The ancestors of a node, from the top of the tree down. -/
def gateAbove (level index : Nat) : List (Nat × Nat) :=
  match level with
  | 2 => [(1, index / 8)]
  | 3 => [(1, index / 64), (2, index / 8)]
  | 4 => [(1, index / 256), (2, index / 32), (3, index / 4)]
  | _ => []

/-- The children of a node. -/
def gateBelow (level index : Nat) : List Nat :=
  match level with
  | 1 => (List.range 8).map (8 * index + ·)
  | 2 => (List.range 8).map (8 * index + ·)
  | 3 => (List.range 4).map (4 * index + ·)
  | _ => []

/-- A loom has a unit in flight. -/
def loomBusy (s : State) (l : Nat) : Bool :=
  let x := mapGet s.eng.looms l LoomSt.idle
  x.shadow.isSome || x.active.isSome || x.out.isSome || s.eng.taken.any fun k => k.loom == l

/-- An admitted plan has an operation for which p holds. -/
def planNames (s : State) (p : Entry → Bool) : Bool := (admittedPlans s).any fun e => e.2.entries.any p

/-- The first row of R461 that refuses an off, with the node in the way. -/
def gateRefusal (s : State) (level index : Nat) : Option (Nat × Nat) :=
  match (gateBelow level index).find? fun c => gateAt s (level + 1) c != 0 with
  | some c => some (2, c)
  | none =>
    let names := fun (e : Entry) => eKind e == 0 && decide (eL0 e ≤ index) && decide (index < eL0 e + eNloom e)
    let vec := fun (e : Entry) => eKind e == 1 && decide (vW0 e ≤ index) && decide (index < vW0 e + vNw e)
    if level = 4 ∧ (loomBusy s index ∨ planNames s names) then some (3, index)
    else if level = 3 ∧ (!(mapGet s.eng.subq index []).isEmpty ∨ planNames s vec) then some (4, index)
    else if level ≤ 2 ∧ jobExists s then some (5, index)
    else none

/-- GATE with ON = 0 (R461 to R463). -/
def gateOff (s : State) (level index : Nat) : State × Reply :=
  match gateAt s level index with
  | 1 =>
    match gateRefusal s level index with
    | some (row, node) => (s, refuse REFUSE_GATE_BUSY 461 row node)
    | none => (setGate s level index 2, done (bytesOfNat 1 2))
  | 3 => (setGate s level index 2, done (bytesOfNat 1 2))
  | v => (s, done (bytesOfNat 1 v))

/-- An off ancestor turns on, and one that is closing takes a reopen (R462, log 37). -/
def openAbove (s : State) (n : Nat × Nat) : State :=
  match gateAt s n.1 n.2 with
  | 0 => setGate s n.1 n.2 1
  | 2 => setGate s n.1 n.2 3
  | _ => s

/-- GATE with ON = 1 (R462, R463). -/
def gateOn (s : State) (level index : Nat) : State × Reply :=
  match gateAt s level index with
  | 0 =>
    let s := (gateAbove level index).foldl openAbove s
    (setGate s level index 1, done (bytesOfNat 1 1))
  | 2 => (setGate s level index 3, done (bytesOfNat 1 3))
  | v => (s, done (bytesOfNat 1 v))

/-- GATE (R461, R462). -/
def cmdGate : Command := fun s r =>
  let level := (byteAt r.payload 0).toNat
  let index := leAt r.payload 2 2
  if byteAt r.payload 1 == 1 then gateOn s level index else gateOff s level index

def execGateOff (rq : MbReq) (s : State) : Host.Outcome State Fault Refusal :=
  .next (mailboxRow 0x0042 cmdGate (withAction rq 1 0) s)
def execGateOn (rq : MbReq) (s : State) : Host.Outcome State Fault Refusal :=
  .next (mailboxRow 0x0042 cmdGate (withAction rq 1 1) s)

/-- Number of a gate level (R459). -/
def gateLevel : GateLevel → Nat
  | .die => 1
  | .guild => 2
  | .workshop => 3
  | .loom => 4

/-- GATE_CLOSE_COMPLETE (R463): a closing node is off; with a reopen pending it turns on again. -/
def execGateCloseComplete (level : GateLevel) (index : Nat) (s : State) : Host.Outcome State Fault Refusal :=
  .next (
    let n := gateLevel level
    match (if stopped s then 1 else gateAt s n index) with
    | 2 => setGate s n index 0
    | 3 => setGate (setGate s n index 0) n index 1
    | _ => s)

end Sys2Proof.Machine
end

