-- ==== Sys2Proof/Machine/Carters.lean ====
section
/-! DEFINITION. Carters: runs, positions, gathers, merged transfers, delivery in order, buffers, circular waits and
faults, with the rows of transfers and streams (R199 to R228). -/

namespace Sys2Proof.Machine

/-! ### Runs (R201, R202) -/

/-- Carter c of the module, 0 to 767 (R226). -/
def carterAt (s : State) (c : Nat) : CarterSt := mapGet s.eng.carters c CarterSt.idle

/-- Carter c replaced. -/
def setCarter (s : State) (c : Nat) (x : CarterSt) : State :=
  { s with eng := { s.eng with carters := sparseSet CarterSt.idle s.eng.carters c x } }

/-- Runs of a slot, oldest first. -/
def slotRuns (s : State) (c slot : Nat) : List Run := mapGet (carterAt s c).runs slot []

/-- Runs of a slot replaced. -/
def setRuns (s : State) (c slot : Nat) (rs : List Run) : State :=
  let x := carterAt s c
  setCarter s c { x with runs := sparseSet [] x.runs slot rs }

/-- Is it that run? -/
def isRun (op : Nat) (u : Option UnitId) (r : Run) : Bool := r.op == op && r.unit == u

/-- The run of an operation and unit in a slot. -/
def findRun (s : State) (c slot op : Nat) (u : Option UnitId) : Option Run := (slotRuns s c slot).find? (isRun op u)

/-- A run of a slot changed by f. -/
def updRun (s : State) (c slot op : Nat) (u : Option UnitId) (f : Run → Run) : State :=
  setRuns s c slot ((slotRuns s c slot).map fun r => if isRun op u r then f r else r)

/-- Runs of a unit leave a slot. -/
def dropRun (s : State) (c slot op : Nat) (u : Option UnitId) : State :=
  setRuns s c slot ((slotRuns s c slot).filter fun r => !isRun op u r)

/-- Elements of a run. -/
def runLen (r : Run) : Nat := (r.ranges.map fun x => x.2 - x.1).sum

/-- The position of index i of a run. -/
def posAt : List (Nat × Nat) → Nat → Nat
  | [], _ => 0
  | (a, b) :: rest, i => if i < b - a then a + i else posAt rest (i - (b - a))

/-- The unit number under which the bias stream of an operation's home loom runs in slot 3 (R111). -/
def biasUnit (op : Nat) : UnitId := ⟨op, 2 ^ 40, 0, 0⟩

/-- The class of a run: that of its waybill; a bias or outlier lane stream only reads (R199). -/
def runClass (r : Run) : Nat := if r.direct.isSome then 0 else wClass r.img

/-- The class under which a run's faults are recorded: slot 3 is of class 3 (R111, R199, R226). -/
def faultClass (r : Run) : Nat := if r.direct.isSome then 3 else wClass r.img

/-- The image of a waybill in the store of a guild (R203). -/
def imageAt (s : State) (g w : Nat) : List Byte := mapGet s.job.images (2 ^ 16 * g + w) []

/-- A run over the given positions of an image. -/
def Run.start (op : Nat) (u : Option UnitId) (img : List Byte) (arm : BitVec 320) (ranges : List (Nat × Nat)) : Run :=
  { op := op, unit := u, img := img, arm := arm, ranges := ranges, rd := 0, given := 0, got := [], wr := 0, wrote := 0, wait := none,
    direct := none, gathers := [], cuts := [] }

/-- A run of an operation's slot arm block, its image fetched from the store of home guild g (R203). -/
def newRun (s : State) (op g : Nat) (u : Option UnitId) (arm : BitVec 320) (ranges : List (Nat × Nat)) : Run :=
  Run.start op u (imageAt s g (armWaybill arm)) arm ranges

/-- A run joins a slot, behind the runs it holds. -/
def addRun (s : State) (c slot : Nat) (r : Run) : State :=
  if runLen r = 0 then s else setRuns s c slot (slotRuns s c slot ++ [r])

/-- A run has delivered its last element (reads) or written it (classes 2 and 3). -/
def runOver (r : Run) : Bool := decide (runLen r ≤ if runClass r = 2 ∨ runClass r = 3 then r.wrote else r.given)

/-- The run of a slot that is under way: the oldest one that is not over, so that a later run waits for its last element (R217). A
bias or outlier lane stream of slot 3 is no waybill and goes ahead of the waybill there (log 66). -/
def currentRun (s : State) (c slot : Nat) : Option Run :=
  let rs := (slotRuns s c slot).filter fun r => !runOver r
  (rs.find? fun r => r.direct.isSome && decide (r.rd < runLen r)).or rs.head?

/-! ### What a position addresses (R207 to R210) -/

/-- An address of the 64-bit space that a base and an offset give: one below 0 lies past every page (R208, R234). -/
def wrapAddr (x : Int) : Nat := (x % (2 ^ 64 : Nat)).toNat

/-- The word that a GATHER reads: what it sets G to (R210). G is 48-bit signed (R205). -/
def readGather (s : State) (arm : BitVec 320) (g : GatherAt) : State × GVal :=
  let addr := wrapAddr ((armBase arm g.ins.bsIdx : Int) + 4 * g.a)
  let (s, bs) := loadSpan s addr 4
  let v := natOfBytes (bs.map (·.1))
  (s, if bs.any fun b => b.2 == 2 then .unmapped addr
      else if bs.any fun b => b.2 == 1 then .poison addr
      else if v = 0xFFFFFFFF then .pad
      else if g.ins.rows ≤ v then .bad addr
      else .off (Int.bmod (v * g.ins.pitch : Nat) (2 ^ 48)))

/-- The GATHER whose G the emission at a position adds. -/
def gatherOf (r : Run) (pos : Nat) : Option GatherAt :=
  match waybillAt r.img pos with
  | some e => if e.ins.gadd then e.regs.g else none
  | none => none

/-- What one position of a run is: nothing to move (a synthesised zero or a discarded element), a marked gather with its fault kind
and address, an element of a buffer, an element of memory by bit address and width with the bit address of its 32-bit word, or a
position whose GATHER has not been executed yet. -/
inductive Place where
  | pad
  | marked (kind addr : Nat)
  | buffer
  | memory (bit width word : Nat)
  | unread
  deriving DecidableEq, Repr

/-- The place of element offset o from a byte base in a format (R208). -/
def elemPlace (base fmt : Nat) (o : Int) : Place :=
  let f := fmtOf fmt
  let wrap := fun (b : Int) => (b % (2 ^ 67 : Nat)).toNat
  let word := if 8 ≤ f.width then elemBitAddr base f o else 8 * ((base : Int) + 4 * (o / perWord f.width))
  .memory (wrap (elemBitAddr base f o)) f.width (wrap word)

/-- The element offset's place in a base slot (R208). -/
def memoryPlace (arm : BitVec 320) (b : Nat) (o : Int) : Place := elemPlace (armBase arm b) (armFmt arm b) o

/-- The source (or, for class 2, the destination) of position pos of a run, from what its GATHERs have read. -/
def placeAt (r : Run) (pos : Nat) : Place :=
  match r.direct with
  | some (base, fmt) => elemPlace base fmt pos
  | none =>
    match waybillAt r.img pos with
    | none => .pad
    | some e =>
      if emissionPadded e then .pad
      else
        match (match gatherOf r pos with | some g => mapFind r.gathers g.pos | none => some (.off 0)) with
        | none => .unread
        | some .pad => .pad
        | some (.unmapped a) => .marked 2 a
        | some (.poison a) => .marked 1 a
        | some (.bad a) => .marked 4 a
        | some (.off v) =>
          if e.ins.srcBuf && wClass r.img != 2 then .buffer
          else memoryPlace r.arm e.ins.bsSrc (e.regs.r.getD e.ins.aSrc 0 + e.j + v)

/-- The GATHER of a position is executed once, the first time a position that adds its G is reached (R207). -/
def gatherRun (s : State) (r : Run) (pos : Nat) : State × Run :=
  match gatherOf r pos with
  | none => (s, r)
  | some g =>
    if (mapFind r.gathers g.pos).isSome then (s, r)
    else
      let (s, v) := readGather s r.arm g
      (s, { r with gathers := mapSet r.gathers g.pos v })

/-- The same for a run of a slot, which keeps what was read. -/
def fetchGather (s : State) (c slot : Nat) (r : Run) (pos : Nat) : State × Run :=
  let (s, q) := gatherRun s r pos
  if q = r then (s, r) else (updRun s c slot r.op r.unit fun x => { x with gathers := q.gathers }, q)

/-- The destination of position pos of a class 3 run: a buffer (by number) or memory. -/
def destAt (r : Run) (pos : Nat) : Option Nat × Place :=
  match waybillAt r.img pos with
  | none => (none, .pad)
  | some e =>
    match e.ins.dst with
    | 1 => (some (wFill0 r.img), .buffer)
    | 2 => (some (wFill1 r.img), .buffer)
    | _ => (none, memoryPlace r.arm e.ins.bsDst (e.regs.r.getD e.ins.aDst 0 + e.j))

/-- Where index i of a run is written: class 2 by its own place, class 3 by its destination in memory. -/
def writePlace (r : Run) (i : Nat) : Place :=
  if runClass r = 2 then placeAt r (posAt r.ranges i)
  else match destAt r (posAt r.ranges i) with | (none, p) => p | _ => .pad

/-- Code width of position pos of a run as it is delivered. -/
def posFmt (r : Run) (pos : Nat) : Fmt :=
  match waybillAt r.img pos with
  | none => .b1
  | some e => fmtOf (armFmt r.arm e.ins.bsSrc)

/-! ### Buffers (R218, R221, R222) -/

def bufAt (s : State) (b : Nat) : BufSt := mapGet s.eng.bufs b ⟨[], [], false⟩

def setBuf (s : State) (b : Nat) (x : BufSt) : State :=
  { s with eng := { s.eng with bufs := sparseSet ⟨[], [], false⟩ s.eng.bufs b x } }

/-- Capacity of a buffer in elements of a width, from its size in lines (R414). -/
def bufCap (s : State) (b width : Nat) : Nat :=
  let lines := fld (mapGet s.job.buffers b 0) 39 22
  if 8 ≤ width then lines * 512 / width else lines * 16 * perWord width

/-- An element can enter a buffer: there is room, or the buffer is spilled. -/
def bufRoom (s : State) (b width : Nat) : Bool :=
  let x := bufAt s b
  x.spilled || decide (x.elems.length < bufCap s b width)

/-- An element enters a buffer, or the spill pages behind it (R221). -/
def bufPut (s : State) (b width : Nat) (e : Elem) : State :=
  let x := bufAt s b
  setBuf s b (if x.spilled then { x with spill := x.spill ++ [(e, width)] } else { x with elems := x.elems ++ [e] })

/-- The oldest element leaves a buffer; once the spill pages are empty it works as before (R221). -/
def bufTake (s : State) (b : Nat) : State × Option Elem :=
  let x := bufAt s b
  match x.elems, x.spill with
  | e :: rest, sp => (setBuf s b { x with elems := rest, spilled := x.spilled && !sp.isEmpty }, some e)
  | [], e :: rest => (setBuf s b { x with spill := rest, spilled := !rest.isEmpty }, some e.1)
  | [], [] => (setBuf s b { x with spilled := false }, none)

/-- Pages of the spill region that a buffer's spilled elements take, packed by their widths as R32 packs them: in 1/480 of a bit, 480
being a multiple of every number of elements in a word. -/
def spillPagesOf (x : BufSt) : Nat :=
  pagesOf (ceilDiv (x.spill.map fun e => if 8 ≤ e.2 then 480 * e.2 else 480 * 32 / perWord e.2).sum (480 * 8))

/-- Pages of the spill region in use. -/
def spillUsed (s : State) : Nat := (s.eng.bufs.map fun e => spillPagesOf e.2).sum

/-- One more spilled element of a buffer would need more pages than the region has (R222). -/
def spillFull (s : State) (b width : Nat) : Bool :=
  (bufAt s b).spilled && decide (s.job.spillPages < spillUsed (bufPut s b width (elemOf 0)))

/-- The spill region has no page left: the step is abandoned and invalid, the event carries its UNRESOLVED bit, and the job holds
with cause SPILL (R222). -/
def spillFails (s : State) (ev : EventArgs) : State :=
  let s := raise s { ev with a0 := ev.a0 + 2 ^ 31 }
  let s := { s with step := { s.step with invalid := true } }
  enterHold (sendBarrier s s.step.number.toNat (barrierTag false true false false s.job.holding 0)) 6

/-! ### Faults of a stream (R223 to R227) -/

/-- Index i of a run takes the position after that of index i - 1, in the same unit, or for class 3 in the same EMIT run
(R227). -/
def followsOn (r : Run) (i : Nat) : Bool :=
  i != 0 && decide (i < runLen r) && posAt r.ranges i == posAt r.ranges (i - 1) + 1 && !r.cuts.contains i &&
    (runClass r != 3 || (match waybillAt r.img (posAt r.ranges i) with | some e => e.j != 0 | none => true))

/-- A fault of n positions of a run from its index i, at an address. -/
def runFault (s : State) (c slot : Nat) (r : Run) (kind i n addr : Nat) : State :=
  let cls := faultClass r
  let pos := posAt r.ranges i
  logFault s { kind := kind, cls := cls, slot := slot, carter := c, op := r.op, first := pos, last := pos + n - 1,
               addr := addr % 2 ^ 64, discarded := cls == 2 && kind != 3 } (followsOn r i) (followsOn r (i + n))

/-- Elements of a run delivered in order: their indices follow those given before. -/
def deliver (r : Run) (es : List Elem) : Run :=
  let n := r.given
  let got := (List.range es.length).foldl (fun (g : List (Nat × Elem)) i => mapSet g (n + i) (es.getD i ⟨0, false, false⟩)) r.got
  { r with given := n + es.length, got := got }

/-- A whole marked gather run: one fault, from the position at hand to the end of its EMIT or of the run's range (R210,
R227). The number of positions it covers. -/
def markedSpan (r : Run) (i : Nat) : Nat :=
  match waybillAt r.img (posAt r.ranges i) with
  | none => 1
  | some e =>
    let left := e.ins.run - e.j
    let rec go (n k : Nat) : Nat :=
      match n with
      | 0 => k
      | n + 1 => if posAt r.ranges (i + k) = posAt r.ranges i + k ∧ i + k < runLen r then go n (k + 1) else k
    max 1 (go left 0)

/-! ### Issue (R212, R213) -/

/-- Transfers of a carter that are outstanding. -/
def outstanding (x : CarterSt) : Nat := (x.xfers.filter fun t => t.data.isNone).length

/-- A place of memory that one transfer may cover right after another: the adjacent code, both whole in one 4 KiB window. An element
that itself crosses a window merges with none (log 67). -/
def adjacent (p q : Place) : Bool :=
  match p, q with
  | .memory a w x, .memory b v _ =>
    w == v && (b == a + w || (decide (w < 8) && b == x + 32 && decide (x + 32 < a + 2 * w))) &&
      (b + v - 1) / 8 / 4096 == a / 8 / 4096
  | _, _ => false

/-- Indices from i on, below `limit`, that merge with place p into one transfer, at most `fuel` more; GATHERs are executed as their
positions are reached. -/
def mergeFrom (c slot limit : Nat) (place : Run → Nat → Place) : (fuel : Nat) → State → Run → Nat → Place → State × Nat
  | 0, s, _, _, _ => (s, 0)
  | fuel + 1, s, r, i, p =>
    if limit ≤ i ∨ r.cuts.contains i ∨ posAt r.ranges i ≠ posAt r.ranges (i - 1) + 1 then (s, 0)
    else
      let (s, r) := fetchGather s c slot r (posAt r.ranges i)
      let q := place r i
      if adjacent p q then let (s, n) := mergeFrom c slot limit place fuel s r (i + 1) q; (s, n + 1) else (s, 0)

/-- The bytes of places p to q, the first and the last of a transfer. -/
def spanOf (p q : Place) : Nat × Nat :=
  match p, q with
  | .memory a _ _, .memory b v _ => (a / 8, (b + v + 7) / 8)
  | _, _ => (0, 0)

/-- A transfer of a run is issued, for n indices from i on. -/
def issue (s : State) (c slot : Nat) (r : Run) (write : Bool) (i n : Nat) (place : Run → Nat → Place) : State :=
  let x := carterAt s c
  let q := (findRun s c slot r.op r.unit).getD r
  let (lo, hi) := spanOf (place q i) (place q (i + n - 1))
  let t : Xfer := ⟨slot, r.op, r.unit, write, i, n, none, lo, hi, s.eng.issued⟩
  let s := setCarter s c { x with xfers := x.xfers ++ [t] }
  countEvents { s with eng := { s.eng with issued := s.eng.issued + 1 } } 4 (c / 6) 1

/-- The stream waits for a buffer (R218, R220): since when is remembered. -/
def waitFor (s : State) (c slot : Nat) (r : Run) (b : Nat) (space : Bool) : State :=
  if r.wait.isSome then s else updRun s c slot r.op r.unit fun q => { q with wait := some (b, space, timebase s) }

/-- The source of index i of a run. -/
def readPlace (r : Run) (i : Nat) : Place := placeAt r (posAt r.ranges i)

/-- Reads of a run from its next index: synthesised and buffered elements come at once, a read of memory is issued. -/
def readNext (s : State) (c slot : Nat) (r : Run) : State :=
  let i := r.rd
  let (s, r) := fetchGather s c slot r (posAt r.ranges i)
  -- elements before i whose reads are still outstanding are delivered first (R213)
  let inOrder := r.given == i
  match readPlace r i with
  | .unread => s
  | .pad =>
    if !inOrder then s
    else updRun s c slot r.op r.unit fun q => { deliver q [⟨0, false, true⟩] with rd := i + 1, wait := none }
  | .marked kind addr =>
    if !inOrder then s
    else
      let n := markedSpan r i
      let s := runFault s c slot r kind i n addr
      updRun s c slot r.op r.unit fun q =>
        { deliver q (List.replicate n ⟨0, true, false⟩) with rd := i + n, wait := none }
  | .buffer =>
    if !inOrder then s
    else
      match bufTake s (wDrain0 r.img) with
      | (s, some e) => updRun s c slot r.op r.unit fun q => { deliver q [e] with rd := i + 1, wait := none }
      | (s, none) => waitFor s c slot r (wDrain0 r.img) false
  | .memory bit w x =>
    let (s, m) := mergeFrom c slot (runLen r) readPlace 32768 s r (i + 1) (.memory bit w x)
    let s := issue s c slot r false i (m + 1) readPlace
    updRun s c slot r.op r.unit fun q => { q with rd := i + (m + 1) }

/-- The event that a spill beyond its region raises: the buffer, and the stream that fills it (R221, R222, R421). -/
def spillEvent (c slot b : Nat) : EventArgs := { code := 0x3003, src := 3, argS := b, a0 := 1, a1 := c * 4 + slot }

/-- Writes of a run from its next index. A class 2 run discards padded and badly gathered elements (R209, R210); a class 3
run fills a buffer or writes memory, a synthesised zero as code 0 (R209). -/
def writeNext (s : State) (c slot : Nat) (r : Run) : State :=
  let i := r.wr
  let pos := posAt r.ranges i
  let cls := runClass r
  let skip := fun (s : State) (n : Nat) => updRun s c slot r.op r.unit fun q =>
    { q with wr := i + n, wrote := q.wrote + n, wait := none }
  let (s, r) := if cls = 2 then fetchGather s c slot r pos else (s, r)
  match (if cls = 2 then none else (destAt r pos).1), writePlace r i with
  | some b, _ =>
    let e := { mapGet r.got i ⟨0, false, false⟩ with pad := false }
    let w := (posFmt r pos).width
    if !bufRoom s b w then waitFor s c slot r b true
    else if spillFull s b w then spillFails s (spillEvent c slot b)
    else skip (bufPut s b w e) 1
  | none, .unread => s
  | none, .pad => skip s 1
  | none, .marked kind addr =>
    let n := markedSpan r i
    skip (runFault s c slot r kind i n addr) n
  | none, .buffer => skip s 1
  | none, .memory bit w x =>
    let (s, m) := mergeFrom c slot r.given writePlace 32768 s r (i + 1) (.memory bit w x)
    let s := issue s c slot r true i (m + 1) writePlace
    updRun s c slot r.op r.unit fun q => { q with wr := i + (m + 1) }

/-- The next step of a slot: a write where elements wait to be written, else a read (R213). -/
def slotStep (s : State) (c slot : Nat) : State :=
  match currentRun s c slot with
  | none => s
  | some r =>
    if decide (2 ≤ runClass r) && decide (r.wr < r.given) then writeNext s c slot r
    else if runClass r = 2 ∨ runLen r ≤ r.rd then s
    else readNext s c slot r

/-! ### Completion (R174, R213, R223, R224) -/

/-- Lines of memory that n bytes at a touch, counted for the Purse by what holds them (R451). -/
def countLines (s : State) (a n : Nat) : State :=
  let k := (a + n - 1) / 64 + 1 - a / 64
  if inHost a then s
  else if a < 2 ^ 40 then countEvents s 10 0 k
  else if a < storeBase then countEvents s 3 ((a - scratchBase) / 0x400000) k
  else countEvents s 7 ((a - storeBase) / 0x2000000) k

/-- The words that hold bits [bit, bit + width). -/
def elemWords (bit width : Nat) : List Nat :=
  (List.range ((bit + width - 1) / 128 + 1 - bit / 128)).map fun k => (bit / 128 + k) * 16

/-- Bit address and width of a place of memory. -/
def placeBits (p : Place) : Nat × Nat := match p with | .memory b w _ => (b, w) | _ => (0, 1)

/-- The elements of a completed read, with its faults: an unmapped page marks the whole transfer (kind 2), a bad word the
elements whose bits lie in it (kind 1). -/
def readElems (s : State) (c : Nat) (r : Run) (t : Xfer) : State × List Elem :=
  let places := (List.range t.count).map fun k => readPlace r (t.first + k)
  let base := t.lo / 16 * 16
  let (s, bs) := loadSpan (countLines s base (t.hi - base)) base (t.hi - base)
  if bs.any fun b => b.2 == 2 then
    let s := (List.range t.count).foldl (fun s k => runFault s c t.slot r 2 (t.first + k) 1 t.lo) s
    (s, List.replicate t.count ⟨0, true, false⟩)
  else
    let v := natOfBytes (bs.map (·.1))
    let badBytes := bs.map fun b => b.2 == 1
    let es := places.map fun p =>
      let (b, w) := placeBits p
      let bad := (elemWords b w).any fun a => badBytes.getD (max a base - base) false
      (⟨v / 2 ^ (b - 8 * base) % 2 ^ w, bad, false⟩ : Elem)
    let s := (List.range t.count).foldl (fun s k =>
      if (es.getD k ⟨0, false, false⟩).poison then
        runFault s c t.slot r 1 (t.first + k) 1 ((placeBits (places.getD k .pad)).1 / 8)
      else s) s
    (s, es)

/-- A byte can be written: its page is mapped, or the host can be reached. A damaged entry is logged as any lookup logs it (R237). -/
def writable (s : State) (a : Nat) : State × Bool :=
  if inHost a then (s, canMaster s) else let (s, x) := translate s a; (s, x.isSome)

/-- A completed write: every element of it, or none of it where a page is unmapped (kind 3, R223). -/
def writeElems (s : State) (c : Nat) (r : Run) (t : Xfer) : State :=
  let (s, ok1) := writable s t.lo
  let (s, ok2) := if t.lo / 2 ^ 21 = (t.hi - 1) / 2 ^ 21 then (s, ok1) else writable s (t.hi - 1)
  if !(ok1 && ok2) then
    (List.range t.count).foldl (fun s k => runFault s c t.slot r 3 (t.first + k) 1 t.lo) s
  else
    let pieces := (List.range t.count).flatMap fun k =>
      match writePlace r (t.first + k) with
      | .memory b w x => let e := mapGet r.got (t.first + k) ⟨0, false, false⟩; codePieces b w x e.code e.poison
      | _ => []
    (storeBits (countLines s t.lo (t.hi - t.lo)) pieces).1

/-- Completed reads of a carter's slot are delivered in position order (R213). -/
def deliverReady (fuel : Nat) (s : State) (c slot : Nat) : State :=
  match fuel with
  | 0 => s
  | fuel + 1 =>
    let x := carterAt s c
    let next := x.xfers.find? fun t => t.slot == slot && !t.write && t.data.isSome &&
      (match findRun s c slot t.op t.unit with | some r => r.given == t.first | none => true)
    match next with
    | some t =>
      let s := setCarter s c { x with xfers := x.xfers.erase t }
      deliverReady fuel (updRun s c slot t.op t.unit fun q => deliver q (t.data.getD [])) c slot
    | none => s

/-- Writes issued before number `seq` are outstanding to a line that bytes [lo, hi) touch: writes to one line are served in issue
order, whoever issued them (R174, R213; for a line of LPDDR6 or of the host as for one of a store, log 68). -/
def lineBusy (s : State) (lo hi seq : Nat) : Bool :=
  s.eng.carters.any fun c => c.2.xfers.any fun u =>
    u.write && decide (u.seq < seq) && decide (u.lo / 64 ≤ (hi - 1) / 64) && decide (lo / 64 ≤ (u.hi - 1) / 64)

/-- The index-th outstanding transfer of a carter completes, unless it is a write and an earlier one to its line has not. A write to a
page that was write-protected has waited for its copy (R215). -/
def completeXfer (s : State) (c index : Nat) : State :=
  let x := carterAt s c
  match (x.xfers.filter fun t => t.data.isNone)[index]? with
  | none => s
  | some t =>
    if t.write && lineBusy s t.lo t.hi t.seq then s
    else
      match findRun s c t.slot t.op t.unit with
      | none => setCarter s c { x with xfers := x.xfers.erase t }
      | some r =>
        if t.write then
          let s := writeElems s c r t
          let y := carterAt s c
          let s := setCarter s c { y with xfers := y.xfers.erase t }
          updRun s c t.slot t.op t.unit fun q => { q with wrote := q.wrote + t.count }
        else
          let (s, es) := readElems s c r t
          let y := carterAt s c
          let s := setCarter s c { y with xfers := y.xfers.map fun u => if u == t then { u with data := some es } else u }
          deliverReady 64 s c t.slot

/-! ### Waiting streams and circular waits (R218, R220 to R222) -/

/-- The run under way of every slot: carter, slot, run. -/
def liveRuns (s : State) : List (Nat × Nat × Run) :=
  s.eng.carters.flatMap fun e => (List.range 4).filterMap fun k => (currentRun s e.1 k).map fun r => (e.1, k, r)

/-- Those that wait for a buffer. -/
def waitingRuns (s : State) : List (Nat × Nat × Run) := (liveRuns s).filter fun r => r.2.2.wait.isSome

/-- A stream could end the wait of a run: it fills the buffer the run drains, or drains the one it fills. -/
def releases (r q : Run) : Bool :=
  q.direct.isNone &&
    match r.wait with
    | some (b, true, _) => (wDrains q.img).contains b
    | some (b, false, _) => (wFills q.img).contains b
    | none => false

/-- The largest subset of `rs` in which each stream waits for a buffer that streams of the set, and no other stream under way, can
fill or drain (R220). -/
def circularSet (live : List (Nat × Nat × Run)) : (fuel : Nat) → List (Nat × Nat × Run) → List (Nat × Nat × Run)
  | 0, rs => rs
  | fuel + 1, rs =>
    let inSet := fun (q : Nat × Nat × Run) => rs.any fun x => x.1 == q.1 && x.2.1 == q.2.1
    let keep := rs.filter fun r => rs.any (fun q => releases r.2.2 q.2.2) && live.all fun q => !releases r.2.2 q.2.2 || inSet q
    if keep.length = rs.length then rs else circularSet live fuel keep

/-- The full buffer of a set that has the lowest number and is not spilled. -/
def fullBuffer (s : State) (set : List (Nat × Nat × Run)) : Option Nat :=
  (set.filterMap fun r => match r.2.2.wait with
    | some (b, true, _) => if (bufAt s b).spilled then none else some b
    | _ => none).foldl (fun (m : Option Nat) b => some (match m with | none => b | some c => min b c)) none

/-- A circular wait is resolved: the full buffer with the lowest number is spilled, or, where the region has no page left,
the step is abandoned and invalid and the job holds with cause SPILL (R221, R222). -/
def resolveWait (s : State) (set : List (Nat × Nat × Run)) : State :=
  match fullBuffer s set with
  | none => s
  | some b =>
    let ids := (set.foldl (fun (m : List (Nat × Unit)) r => mapSet m (r.1 * 4 + r.2.1) ()) []).map (·.1)
    let ev : EventArgs := { code := 0x3003, src := 3, argS := b, a0 := ids.length, a1 := ids.headD 0, a2 := ids.getD 1 0 }
    if spillUsed s + 1 ≤ s.job.spillPages then
      let s := setBuf s b { bufAt s b with spilled := true }
      let s := set.foldl (fun s r =>
        match r.2.2.wait with
        | some (c, true, _) =>
          if c = b then updRun s r.1 r.2.1 r.2.2.op r.2.2.unit fun q => { q with wait := none } else s
        | _ => s) s
      raise s ev
    else spillFails s ev

/-! ### The rows -/

/-- The engines of the compute dies run: the rails are on and a step's operations may be under way, which is so until its boundary
work is complete. -/
def enginesRun (s : State) : Bool := !stopped s && s.step.active && s.step.phase != 3 && !s.step.abandoned

/-- CIRCULAR_WAIT_DETECT (R220 to R222): 100 µs without progress of a set of streams that wait for each other. -/
def execCircularWaitDetect (s : State) : Host.Outcome State Fault Refusal :=
  .next (
    if !enginesRun s then s
    else
      let set := circularSet (liveRuns s) 64 (waitingRuns s)
      let since := set.foldl (fun t r => match r.2.2.wait with | some (_, _, u) => max t u | none => t) 0
      if set.isEmpty then s else resolveWait (advanceTo s (since + 100000)) set)

end Sys2Proof.Machine
end

