-- ==== Sys2Proof/Machine/Looms.lean ====
section
/-! DEFINITION. Looms and combiners: units and sub-queues, popping and stealing, loads, the shadow swap, cell handshakes,
the ordered fold and reclaims, with their rows (R51 to R78, R96 to R106, R183 to R192). -/

namespace Sys2Proof.Machine

/-! ### Looms, tiles and units -/

def loomAt (s : State) (l : Nat) : LoomSt := mapGet s.eng.looms l LoomSt.idle

def setLoom (s : State) (l : Nat) (x : LoomSt) : State :=
  { s with eng := { s.eng with looms := sparseSet LoomSt.idle s.eng.looms l x } }

def tileKey (u : UnitId) : Nat := 2 ^ 40 * u.op + u.tile

/-- The open tile of a unit. -/
def tileOf (s : State) (u : UnitId) : Option TileSt := mapFind s.eng.tiles (tileKey u)

def setTile (s : State) (key : Nat) (t : TileSt) : State :=
  { s with eng := { s.eng with tiles := mapSet s.eng.tiles key t } }

/-- A tile just opened. -/
def TileSt.opened (now : Nat) : TileSt := ⟨0, now, [], [], 0, 0, none, []⟩

/-- Listed outlier channels of an operation that has started (R120, R121). -/
def opOutliers (s : State) (op : Nat) : List Nat :=
  match mapFind s.eng.ops op with | some r => r.outliers | none => []

/-- The entry of an outlier tile: windowed M-mode, bfloat16 stationary codes and the operation's streaming operand
(R120). -/
def laneEntry (e : Entry) : Entry := setFld (setFld (setFld e 135 132 12) 145 144 0) 131 130 (if eNummode e = 2 then 0 else eNummode e)

/-- The unit is one of the outlier lane. -/
def isLane (e : Entry) (u : UnitId) : Bool := decide (tileCount e ≤ u.tile)

/-- The format of the weight block that output tile t covers, where its layer steers blocks (R140): the column tile in WS
and OS, the streamed tile in IS. -/
def blockFmt (s : State) (e : Entry) (t : Nat) : Option Nat :=
  let w := if eDataflow e = 2 then eTx e else eTs e
  let b := if eDataflow e = 2 then t % streamTiles e else t / streamTiles e
  match s.job.steer.find? fun l => stW l.desc == w && stBlock l.desc && fld l.layer 9 8 == 0 with
  | some l => (l.blocks[b]?).map fun x => widthFmt (fld x 19 16)
  | none => none

/-- The entry that governs a unit: that of the outlier lane, or the operation's with the format of the tile's block, base slots
included (R128, R140, R208). -/
def unitEntry (s : State) (u : UnitId) : Entry :=
  let e := stepOp s u.op
  if isLane e u then laneEntry e
  else match blockFmt s e u.tile with
    | some f => if eDataflow e = 2 then steerArm s (setFld e 139 136 f) 0 (some f) else steerArm s (setFld e 135 132 f) 1 (some f)
    | none => e

/-- Streamed tile of a unit's tile number. -/
def laneIndex (e : Entry) (t : Nat) : Nat := t - tileCount e

/-- Channels of outlier tile t: up to 64 listed channels in increasing index (R120). -/
def laneChannels (s : State) (e : Entry) (u : UnitId) : List Nat :=
  ((opOutliers s u.op).drop (64 * (laneIndex e u.tile / streamTiles e))).take 64

/-- Columns and vectors of a unit's tile, and its first vector. -/
def unitCols (s : State) (u : UnitId) : Nat :=
  let e := stepOp s u.op
  if isLane e u then (laneChannels s e u).length else tileCols e u.tile
def unitVecs (s : State) (u : UnitId) : Nat :=
  let e := stepOp s u.op
  if isLane e u then min 64 (eM e - 64 * (laneIndex e u.tile % streamTiles e)) else tileVecsOf e u.tile
def unitVec0 (s : State) (u : UnitId) : Nat :=
  let e := stepOp s u.op
  if isLane e u then 64 * (laneIndex e u.tile % streamTiles e) else tileVec e u.tile

/-- Output tiles with those of the outlier lane. -/
def allTiles (s : State) (op : Nat) : Nat :=
  let e := stepOp s op
  tileCount e + ceilDiv (opOutliers s op).length 64 * streamTiles e

/-- Home loom of a unit (R182). -/
def unitHome (s : State) (u : UnitId) : Nat := homeLoom (stepOp s u.op) u.tile

/-- The units of an operation in sub-queue order (R183). -/
def opUnits (s : State) (op : Nat) : List UnitId :=
  (List.range (allTiles s op)).flatMap fun t =>
    let e := unitEntry s ⟨op, t, 0, 0⟩
    if eDataflow e = 1 then (if ktCount e = 0 then [] else [⟨op, t, 0, 0⟩])
    else (List.range (ktCount e)).flatMap fun k => (List.range (opPasses e)).map fun p => ⟨op, t, k, p⟩

/-- Ordinal of a unit in its tile (R188). -/
def unitOrd (s : State) (u : UnitId) : Nat := u.kt * opPasses (unitEntry s u) + u.pass

/-- Units of a tile. -/
def tileUnits (s : State) (u : UnitId) : Nat :=
  let e := unitEntry s u
  if eDataflow e = 1 then (if ktCount e = 0 then 0 else 1) else ktCount e * opPasses e

/-- Every unit of a tile has been folded. -/
def tileReady (s : State) (op tile : Nat) : Bool :=
  match tileOf s ⟨op, tile, 0, 0⟩ with
  | some t => decide (tileUnits s ⟨op, tile, 0, 0⟩ ≤ t.next)
  | none => tileUnits s ⟨op, tile, 0, 0⟩ == 0

/-! ### Combiner space (R189, R190) -/

/-- Bytes of a tile's accumulators and of one unit's partials. -/
def accBytes (lmode : Bool) : Nat := if lmode then 16384 else 393216
def partBytes (lmode : Bool) : Nat := if lmode then 16384 else 65536

/-- The unit of an open tile's key. -/
def keyUnit (k : Nat) : UnitId := ⟨k / 2 ^ 40, k % 2 ^ 40, 0, 0⟩

/-- Open tiles of a guild's combiner. -/
def guildTiles (s : State) (g : Nat) : List (Nat × TileSt) :=
  s.eng.tiles.filter fun e => guildOf (unitHome s (keyUnit e.1)) == g && eDataflow (stepOp s (keyUnit e.1).op) != 1

/-- Accumulators of one more tile fit. -/
def accRoom (s : State) (u : UnitId) : Bool :=
  let used := ((guildTiles s (guildOf (unitHome s u))).map fun e => accBytes (opLmode (unitEntry s (keyUnit e.1)))).sum
  decide (used + accBytes (opLmode (unitEntry s u)) ≤ 3 * 2 ^ 20)

/-- One more unit's partials fit the reorder buffer. -/
def heldRoom (s : State) (u : UnitId) : Bool :=
  let used := ((guildTiles s (guildOf (unitHome s u))).map fun e =>
    e.2.held.length * partBytes (opLmode (unitEntry s (keyUnit e.1)))).sum
  decide (used + partBytes (opLmode (unitEntry s u)) ≤ 2 ^ 20)

/-- Vector slots of a loom's foot accumulators that its open OS tiles use (R98). -/
def footUsed (s : State) (l : Nat) : Nat :=
  ((s.eng.tiles.filter fun e => eDataflow (stepOp s (keyUnit e.1).op) == 1 && unitHome s (keyUnit e.1) == l).map fun e =>
    unitVecs s (keyUnit e.1)).sum

/-- The unit may be taken: its tile is open, or can be opened (R190). OS tiles use the 16 vector slots of the loom's own foot
accumulators (R98). -/
def mayTake (s : State) (u : UnitId) : Bool :=
  (tileOf s u).isSome ||
    (if eDataflow (stepOp s u.op) = 1 then decide (footUsed s (unitHome s u) + unitVecs s u ≤ 16) else accRoom s u)

/-! ### Popping and stealing (R184 to R187) -/

def subqAt (s : State) (w : Nat) : List UnitId := mapGet s.eng.subq w []

def setSubq (s : State) (w : Nat) (q : List UnitId) : State :=
  { s with eng := { s.eng with subq := sparseSet [] s.eng.subq w q } }

/-- Units of a guild's steal queue. -/
def guildUnits (s : State) (g : Nat) : Nat := ((List.range 8).map fun w => (subqAt s (8 * g + w)).length).sum

/-- The tail of a sub-queue may be stolen: an OS unit never is (R185). -/
def tailOf (s : State) (w : Nat) : Option UnitId :=
  match (subqAt s w).getLast? with
  | some u => if eDataflow (stepOp s u.op) != 1 && mayTake s u then some u else none
  | none => none

/-- The fullest sub-queue of a guild, the lower workshop on a tie. -/
def fullest (s : State) (g : Nat) : Nat :=
  (List.range 8).foldl (fun best w =>
    if (subqAt s best).length < (subqAt s (8 * g + w)).length then 8 * g + w else best) (8 * g)

/-- What a loom takes next: the unit, its victim workshop, and how (R184). -/
def nextUnit (s : State) (l : Nat) : Option (UnitId × Nat × Nat) :=
  let w := workshopOf l
  let g := guildOf l
  match subqAt s w with
  | u :: _ =>
    if eDataflow (stepOp s u.op) = 1 ∧ unitHome s u ≠ l then
      -- an OS unit is fixed to its home loom (R185): the first of the sub-queue that is not
      match (subqAt s w).find? fun u => mayTake s u && (eDataflow (stepOp s u.op) != 1 || unitHome s u == l) with
      | some v => some (v, w, 0)
      | none => none
    else if mayTake s u then some (u, w, 0) else none
  | [] =>
    let sibling := [1, 7, 2, 6, 3, 5, 4].findSome? fun d =>
      let v := 8 * g + (w % 8 + d) % 8
      if 2 ≤ (subqAt s v).length then (tailOf s v).map fun u => (u, v, 1) else none
    match sibling with
    | some x => some x
    | none =>
      if guildUnits s g ≠ 0 then none
      else
        [1, 7].findSome? fun d =>
          let h := g / 8 * 8 + (g % 8 + d) % 8
          if 16 ≤ guildUnits s h then (tailOf s (fullest s h)).map fun u => (u, fullest s h, 2) else none

/-! ### Streams of a unit (R199, R202) -/

/-- Positions of slot 0 for a unit: for each k-tile of it, each streamed index (R202). -/
def streamRanges (s : State) (u : UnitId) : List (Nat × Nat) :=
  let e := unitEntry s u
  let kts := if eDataflow e = 1 then List.range (ktCount e) else [u.kt]
  kts.flatMap fun k => (List.range (unitVecs s u)).map fun v =>
    let p := (unitVec0 s u + v) * eK e + ktWidth e * k
    (p, p + ktLen e k)

/-- Output channel of column c of a unit's tile: a listed one in the outlier lane (R120). -/
def unitChannel (s : State) (u : UnitId) (c : Nat) : Nat :=
  let e := stepOp s u.op
  if isLane e u then (laneChannels s e u).getD c 0 else tileCol e u.tile + c

/-- Positions of a unit's stationary elements: for each k-tile, each column. -/
def loadRanges (s : State) (u : UnitId) : List (Nat × Nat) :=
  let e := unitEntry s u
  let kts := if eDataflow e = 1 then List.range (ktCount e) else [u.kt]
  kts.flatMap fun k => (List.range (unitCols s u)).map fun c =>
    let p := unitChannel s u c * eK e + ktWidth e * k
    (p, p + ktLen e k)

/-- Byte address and format of the bfloat16 parameters that the outlier lane reads; an address without a page where the job has no
such tensor (R120; log 69). -/
def laneSource (s : State) (e : Entry) : Nat × Nat :=
  match tensorOf s (Config.outlierSource (eTs e)) with
  | some t => (tdAddr t.desc, 12)
  | none => (2 ^ 48, 12)

/-- Index in the slot 0 or slot 1 run of element o of line i (vector or column) in k-tile k; `lines` is how many there
are. -/
def runIndex (e : Entry) (k lines i o : Nat) : Nat :=
  (if eDataflow e = 1 then lines * (ktWidth e * k) else 0) + i * ktLen e k + o

/-- The unit's stream elements: element o of vector v in k-tile k, once delivered. -/
def streamElem (s : State) (l : Nat) (u : UnitId) (k v o : Nat) : Option Elem :=
  let e := unitEntry s u
  match findRun s (feederOf l) 0 u.op (some u) with
  | some r => mapFind r.got (runIndex e k (unitVecs s u) v o)
  | none => none

/-- The slot that brings a unit's stationary elements: the outlier lane's parameters come through slot 3 (R199). -/
def loadSlot (s : State) (u : UnitId) : Nat := if isLane (stepOp s u.op) u then 3 else 1

/-- The unit's stationary element o of column c in k-tile k, once delivered. -/
def statElem (s : State) (l : Nat) (u : UnitId) (k c o : Nat) : Option Elem :=
  match findRun s (feederOf l) (loadSlot s u) u.op (some u) with
  | some r => mapFind r.got (runIndex (unitEntry s u) k (unitCols s u) c o)
  | none => none

/-! ### Taking a unit (R184, R190, R191, R203) -/

/-- A loom begins a unit: its load enters the shadow, its feeder gets the unit's stream and load runs, and its tile is open. -/
def beginUnit (s : State) (l : Nat) (u : UnitId) (stolen : Nat) : State :=
  let e := unitEntry s u
  let g := guildOf (unitHome s u)
  let s := if (tileOf s u).isSome then s else setTile s (tileKey u) (TileSt.opened (timebase s))
  let x := loomAt s l
  let s := setLoom s l { x with shadow := some ⟨u, u.kt, u.pass, 0, 0⟩ }
  let s := { s with eng := { s.eng with taken := s.eng.taken ++ [⟨u, l, stolen, timebase s⟩],
                                        missing := s.eng.missing.filter (· != l) } }
  let s := addRun s (feederOf l) 0 (newRun s u.op g (some u) (eArm e 0) (streamRanges s u))
  if isLane (stepOp s u.op) u then
    addRun s (feederOf l) 3 { Run.start u.op (some u) [] 0 (loadRanges s u) with direct := some (laneSource s (stepOp s u.op)) }
  else addRun s (feederOf l) 1 (newRun s u.op g (some u) (eArm e 1) (loadRanges s u))

/-- A loom with nothing to do to which no source offers a unit counts its time from now on as steal-miss idle (R184). -/
def noteMiss (s : State) (l : Nat) : State :=
  let x := loomAt s l
  if x.shadow.isNone && x.active.isNone && loomOn s l && !s.eng.missing.contains l && (nextUnit s l).isNone then
    { s with eng := { s.eng with missing := s.eng.missing ++ [l] } }
  else s

/-- A loom takes its next unit (R184), with the counters and the trace of a steal. -/
def takeUnit (s : State) (l : Nat) : State :=
  match nextUnit s l with
  | none => s
  | some (u, v, stolen) =>
    let s := setSubq s v ((subqAt s v).erase u)
    let w := workshopOf l
    let s :=
      match stolen with
      | 0 => s
      | 1 => trace (bump (bump s (0xA00 + w)) (0xA80 + v)) 12 0 l u.op u.kt
      | _ => trace (bump (bump s (0xF80 + w)) (0xA80 + v)) 12 1 l u.op u.kt
    beginUnit s l u stolen

/-! ### Masks (R104) -/

/-- Column c of a unit's tile takes part: below N, and not a listed channel of the main operation. -/
def colActive (s : State) (u : UnitId) (c : Nat) : Bool :=
  let e := stepOp s u.op
  decide (c < unitCols s u) &&
    (isLane e u || !eOutlier e || !(opOutliers s u.op).contains (tileCol e u.tile + c))

/-- Active columns of a unit. -/
def activeCols (s : State) (u : UnitId) : List Nat := (List.range 64).filter (colActive s u)

/-- Row slots of load j of a k-tile that hold an element (R56, R66, R104). -/
def rowActive (e : Entry) (k j r : Nat) : Bool :=
  if opLmode e then
    let p := prodsPer (opMode e) (fmtOf (eFmtS e)) (fmtOf (eFmtX e))
    decide (r * p < ktLen e k)
  else decide ((64 * j + r) / opLoads e < ktLen e k)

/-- Active rows of load j. -/
def activeRows (e : Entry) (k j : Nat) : List Nat := (List.range 64).filter (rowActive e k j)

/-- Elements that row r of load j works on: p of them in L-mode (R56), one in M-mode (R66). -/
def rowElems (e : Entry) (k j r : Nat) : List Nat :=
  if opLmode e then
    let p := prodsPer (opMode e) (fmtOf (eFmtS e)) (fmtOf (eFmtX e))
    ((List.range p).map (r * p + ·)).filter fun o => decide (o < ktLen e k)
  else
    let i := (64 * j + r) / opLoads e
    if i < ktLen e k then [i] else []

/-! ### Loads (R100 to R102) -/

/-- The stationary elements that wavefront w of a load needs have been delivered: those of its four rows, and in the first load of an
M-mode k-tile elements 4w to 4w + 3, whose class, sign and exponent it carries for every load (R102). -/
def wavefrontReady (s : State) (l : Nat) (ld : LoadSt) (w : Nat) : Bool :=
  let e := unitEntry s ld.unit
  let here := fun (o : Nat) => (activeCols s ld.unit).all fun c => (statElem s l ld.unit ld.kt c o).isSome
  (List.range 4).all fun i =>
    (rowElems e ld.kt ld.load (4 * w + i)).all here &&
      (opLmode e || ld.load != 0 || decide (ktLen e ld.kt ≤ 4 * w + i) || here (4 * w + i))

/-- One load wavefront enters the shadow registers. -/
def loadWavefront (s : State) (l : Nat) : State :=
  let x := loomAt s l
  match x.shadow with
  | none => s
  | some ld =>
    if ld.waves < 16 && wavefrontReady s l ld ld.waves then
      setLoom s l { x with shadow := some { ld with waves := ld.waves + 1 } }
    else s

/-- The load after this one within the unit: the next of the k-tile (R102), or in OS the first of the next pass, then of the next
k-tile (R75, R98). -/
def followingLoad (e : Entry) (ld : LoadSt) : Option LoadSt :=
  if ld.load + 1 < opLoads e then some { ld with load := ld.load + 1, waves := 0 }
  else if eDataflow e ≠ 1 then none
  else if ld.pass + 1 < opPasses e then some { ld with pass := ld.pass + 1, load := 0, waves := 0 }
  else if ld.kt + 1 < ktCount e then some { ld with kt := ld.kt + 1, pass := 0, load := 0, waves := 0 }
  else none

/-! ### Cells (R51 to R75, R103) -/

/-- Subnormal operands are read as zero: Fast mode, but not in Ledger (R41, R80). -/
def opFlush (e : Entry) : Bool := eNummode e == 0

/-- Tokens of row r of load j for vector v: one in L-mode; the nonzero nibbles of the element's significand in M-mode
(R67, R68). -/
def tokens (s : State) (l : Nat) (ld : LoadSt) (v r : Nat) : Nat :=
  let e := unitEntry s ld.unit
  if opLmode e then 1
  else
    match rowElems e ld.kt ld.load r with
    | o :: _ =>
      (match streamElem s l ld.unit ld.kt v o with
       | some x =>
         let fx := fmtOf (eFmtX e)
         if (elemNum fx (opFlush e) x).cls != .finite then 0
         else
           let op := elemOp fx (opFlush e) x
           let op := if opMode e = .mSplit then pieceOf op (ld.pass % pieces fx) else op
           ((List.range (nibbles op.w)).filter fun i => op.m / 16 ^ i % 16 != 0).length
       | none => 0)
    | [] => 0

/-- Every element of vector v of the k-tile has been delivered, sideband included (R70). -/
def vectorHere (s : State) (l : Nat) (ld : LoadSt) (v : Nat) : Bool :=
  let e := unitEntry s ld.unit
  (List.range (ktLen e ld.kt)).all fun o => (streamElem s l ld.unit ld.kt v o).isSome

/-- The vector that cell (r, c) works on next, vectors without tokens passed over, and the nibbles it has taken of it. -/
def cellPlace (s : State) (l : Nat) (ld : LoadSt) (r c : Nat) : Nat × Nat :=
  let q := mapGet (loomAt s l).cells (64 * r + c) 0
  let rec go (fuel v : Nat) : Nat :=
    match fuel with
    | 0 => v
    | fuel + 1 => if v < unitVecs s ld.unit && vectorHere s l ld v && tokens s l ld v r == 0 then go fuel (v + 1) else v
  if q % 8 ≠ 0 then (q / 8, q % 8) else (go 65 (q / 8), 0)

/-- Location of element o of k-tile k (R86): its load and first row. -/
def elemLoc (e : Entry) (k o l : Nat) : Loc :=
  if opLmode e then
    let p := prodsPer (opMode e) (fmtOf (eFmtS e)) (fmtOf (eFmtX e))
    ⟨k, 0, o / p, l⟩
  else ⟨k, opLoads e * o / 64, opLoads e * o % 64, l⟩

/-- A column's partial before its first product: in M-mode the anchor and the classes, from the sideband of the whole
k-tile (R69, R70, R82). -/
def startPart (s : State) (l : Nat) (ld : LoadSt) (v c : Nat) : Part :=
  let e := unitEntry s ld.unit
  if opLmode e then {}
  else
    let fs := fmtOf (eFmtS e)
    let fx := fmtOf (eFmtX e)
    let fl := opFlush e
    let pairs := (List.range (ktLen e ld.kt)).map fun o =>
      (o, (statElem s l ld.unit ld.kt c o).getD (elemOf 0), (streamElem s l ld.unit ld.kt v o).getD (elemOf 0))
    let fin := pairs.filter fun p => finiteNonzero fs fx fl p.2.1 p.2.2
    let a := anchorOf (fin.map fun p => passOps (opMode e) fs fx fl ld.pass p.2.1 p.2.2)
    pairs.foldl (fun (acc : Part) p => classFold fs fx fl (elemLoc e ld.kt p.1 l) p.2.1 p.2.2 acc) { anchor := a }

/-- The partial of (v, c) of the k-tile in progress. -/
def partOf (s : State) (l : Nat) (ld : LoadSt) (v c : Nat) : Part :=
  match mapFind (loomAt s l).parts (64 * v + c) with
  | some p => p
  | none => startPart s l ld v c

/-- The products of row r for (v, c) join the column's partial: in L-mode each of the row's products in turn (R57, R60), in
M-mode the element's product with its last nibble slot (R66, R71). -/
def foldRow (s : State) (l : Nat) (ld : LoadSt) (v r c : Nat) : Part :=
  let e := unitEntry s ld.unit
  let fs := fmtOf (eFmtS e)
  let fx := fmtOf (eFmtX e)
  let elem := fun o => ((statElem s l ld.unit ld.kt c o).getD (elemOf 0), (streamElem s l ld.unit ld.kt v o).getD (elemOf 0))
  let p := partOf s l ld v c
  if opLmode e then
    (rowElems e ld.kt ld.load r).foldl (fun (a : Part) o => lFold fs fx (elemLoc e ld.kt o l) (elem o).1 (elem o).2 a) p
  else if (64 * ld.load + r) % opLoads e ≠ opLoads e - 1 then p
  else
    (rowElems e ld.kt ld.load r).foldl (fun (a : Part) o =>
      let w := (elem o).1
      let x := (elem o).2
      if finiteNonzero fs fx (opFlush e) w x then
        let ops := passOps (opMode e) fs fx (opFlush e) ld.pass w x
        mFold (opMode e != .mWindowed) o ops.1 ops.2 a
      else a) p

/-- The slowest row of the active load is no more than 4 vectors behind v (R103). -/
def skewOk (s : State) (l : Nat) (ld : LoadSt) (v : Nat) : Bool :=
  let e := unitEntry s ld.unit
  (activeRows e ld.kt ld.load).all fun r => (activeCols s ld.unit).all fun c =>
    decide (v ≤ (cellPlace s l ld r c).1 + 4)

/-- The cells above (r, c) have passed vector v on: an L-mode column folds its rows in order (R60). -/
def aboveDone (s : State) (l : Nat) (ld : LoadSt) (v r c : Nat) : Bool :=
  ((activeRows (unitEntry s ld.unit) ld.kt ld.load).filter (· < r)).all fun q => decide (v < (cellPlace s l ld q c).1)

/-- Every active cell has taken every vector's tokens (R53). -/
def streamed (s : State) (l : Nat) (ld : LoadSt) : Bool :=
  (List.range (unitVecs s ld.unit)).all (vectorHere s l ld) &&
    (activeRows (unitEntry s ld.unit) ld.kt ld.load).all fun r => (activeCols s ld.unit).all fun c =>
      decide (unitVecs s ld.unit ≤ (cellPlace s l ld r c).1)

/-- Partials of the k-tile for every element of the tile, those without a handshake included. -/
def allParts (s : State) (l : Nat) (ld : LoadSt) : List (Nat × Part) :=
  (List.range (unitVecs s ld.unit)).flatMap fun v => (activeCols s ld.unit).map fun c => (64 * v + c, partOf s l ld v c)

/-- Partials folded into accumulators (R61, R77). -/
def foldParts (lmode : Bool) (acc : List (Nat × Acc)) (ps : List (Nat × Part)) : List (Nat × Acc) :=
  ps.foldl (fun (a : List (Nat × Acc)) p => mapSet a p.1 (accFold lmode (mapGet a p.1 {}) p.2)) acc

/-- The layer for which tile t of an operation is sampled (R142). -/
def sampledLayer (s : State) (op t : Nat) : Option SteerLayer :=
  let e := stepOp s op
  match layerOf s (eLayer e) with
  | none => none
  | some l =>
    let w := if eDataflow e = 2 then eTx e else eTs e
    let m := 2 ^ stSample l.desc
    if w = stW l.desc && ePurpose e != 2 && eNummode e != 2 && !stSampleOff l.desc &&
        (t + s.step.number.toNat) % m == eLayer e % m then some l else none

/-- A unit's inputs are kept for the ledger recomputation of a sampled tile: its own, or one whose listed channels it computes. -/
def unitSampled (s : State) (u : UnitId) : Bool :=
  let e := stepOp s u.op
  if isLane e u then
    (List.range (tileCount e)).any fun t => t % streamTiles e == laneIndex e u.tile % streamTiles e && (sampledLayer s u.op t).isSome
  else (sampledLayer s u.op u.tile).isSome

/-- The elements that a unit's streams have delivered to a loom. -/
def unitInputs (s : State) (l : Nat) (u : UnitId) : List (Nat × Elem) × List (Nat × Elem) :=
  let got := fun (k : Nat) => match findRun s (feederOf l) k u.op (some u) with | some r => r.got | none => []
  (got 0, got (loadSlot s u))

/-- The inputs of a unit of a sampled tile are kept. -/
def keepInputs (s : State) (l : Nat) (u : UnitId) : State :=
  match (if unitSampled s u then tileOf s u else none) with
  | some t => if t.inputs.any fun x => x.1 == u then s else setTile s (tileKey u) { t with inputs := t.inputs ++ [(u, unitInputs s l u)] }
  | none => s

/-- A unit's runs leave the feeder of a loom. -/
def dropUnitRuns (s : State) (l : Nat) (u : UnitId) : State :=
  [0, 1, 3].foldl (fun s k => dropRun s (feederOf l) k u.op (some u)) s

/-- A unit's loads are over: it is counted, its runs leave the feeder. -/
def unitDone (s : State) (l : Nat) (u : UnitId) : State := dropUnitRuns (keepInputs (bump s (0x200 + l)) l u) l u

/-- The streaming of the active load has ended; a load in the shadow registers that is not complete is a load stall from now on
(R101). -/
def endLoad (x : LoomSt) : LoomSt := { x with active := none, cells := [], loadWait := loadPartial x }

/-- The end of streaming: after the last load of a k-tile the partials leave for the combiner, or in OS join the foot
accumulators (R98, R101, R190). -/
def settle (s : State) (l : Nat) : State :=
  let x := loomAt s l
  match x.active with
  | none => s
  | some ld =>
    let e := unitEntry s ld.unit
    if !streamed s l ld then s
    else if ld.load + 1 < opLoads e then setLoom s l (endLoad x)
    else if eDataflow e = 1 then
      let ps := allParts s l ld
      let t := (tileOf s ld.unit).getD (TileSt.opened 0)
      let last := (followingLoad e ld).isNone
      let s := setTile s (tileKey ld.unit) { t with acc := foldParts (opLmode e) t.acc ps, next := if last then 1 else 0 }
      let s := setLoom s l { endLoad x with parts := [] }
      if last then
        noteMiss (unitDone { s with eng := { s.eng with taken := s.eng.taken.filter fun k => k.unit != ld.unit } } l ld.unit) l
      else s
    else if x.out.isSome then s
    else
      let ps := allParts s l ld
      noteMiss (unitDone (setLoom s l { endLoad x with parts := [], out := some (ld.unit, ps) }) l ld.unit) l

/-- The loom swaps shadow for active once the load is complete and streaming has ended (R101). -/
def shadowSwap (s : State) (l : Nat) : State :=
  let x := loomAt s l
  match x.shadow, x.active with
  | some ld, none =>
    if ld.waves = 16 then
      settle (setLoom s l { x with active := some ld, cells := [], shadow := followingLoad (unitEntry s ld.unit) ld,
                                    loadWait := false }) l
    else s
  | _, _ => s

/-- One handshake of cell (r, c) (R51, R55, R67). In M-mode each row advances at its own pace (R73, R103). -/
def cellHandshake (s : State) (l r c : Nat) : State :=
  let x := loomAt s l
  match x.active with
  | none => s
  | some ld =>
    let e := unitEntry s ld.unit
    let (v, n) := cellPlace s l ld r c
    if !colActive s ld.unit c || !rowActive e ld.kt ld.load r || decide (unitVecs s ld.unit ≤ v) || !vectorHere s l ld v ||
        (opLmode e && !aboveDone s l ld v r c) || !skewOk s l ld v then s
    else
      let last := decide (tokens s l ld v r ≤ n + 1)
      let p := if last then foldRow s l ld v r c else partOf s l ld v c
      let s := setLoom s l { x with cells := mapSet x.cells (64 * r + c) (if last then 8 * (v + 1) else 8 * v + n + 1),
                                    parts := mapSet x.parts (64 * v + c) p }
      settle (countEvents (bump s l) (if opLmode e then 0 else 1) (workshopOf l) 1) l

/-! ### The ordered combiner (R188 to R192) -/

/-- Held partials that now follow in order are folded. -/
def releaseHeld (lmode : Bool) : (fuel : Nat) → TileSt → TileSt
  | 0, t => t
  | fuel + 1, t =>
    match mapFind t.held t.next with
    | some ps => releaseHeld lmode fuel { t with acc := foldParts lmode t.acc ps, held := mapErase t.held t.next, next := t.next + 1 }
    | none => t

/-- A stolen unit's time lost to ring or die interconnect capacity, counted for the thief's workshop when its partial arrives: how
much of the time since it was taken is a free value (R186, R197; log 70). -/
def ringStall (s : State) (l : Nat) (u : UnitId) : State :=
  match s.eng.taken.find? fun k => k.unit == u && k.loom == l && k.stolen != 0 with
  | some k => let (s, d) := freeBelow s (timebase s - k.since + 1); addCounter s (0xB80 + workshopOf l) d
  | none => s

/-- A loom's finished partial reaches its home combiner: folded, held, or discarded as a duplicate (R188, R192); one that the reorder
buffer cannot hold waits in the loom (R190). -/
def partialArrives (s : State) (l : Nat) : State :=
  let x := loomAt s l
  match x.out with
  | none => s
  | some (u, ps) =>
    let lm := opLmode (unitEntry s u)
    let ord := unitOrd s u
    let freed := setLoom (ringStall s l u) l { x with out := none, foldWait := false }
    let untake := fun (s : State) => { s with eng := { s.eng with taken := s.eng.taken.filter fun k => k.unit != u } }
    match tileOf s u with
    | none => settle (bump freed (0xE00 + guildOf (unitHome s u))) l
    | some t =>
      if ord < t.next || (mapFind t.held ord).isSome then
        settle (bump freed (0xE00 + guildOf (unitHome s u))) l
      else if ord = t.next then
        let t' := releaseHeld lm (t.held.length + 1) { t with acc := foldParts lm t.acc ps, next := t.next + 1 }
        settle (untake (setTile freed (tileKey u) { t' with since := timebase s })) l
      else if heldRoom s u then
        settle (untake (setTile freed (tileKey u) { t with held := mapSet t.held ord ps })) l
      else setLoom s l { x with foldWait := true }

/-! ### Reclaims (R191) -/

/-- The reclaim window of the present operating point, in ns: 512 handshake times (R93). -/
def reclaimNs (s : State) : Nat := match s.pow.opNow with | 0 => 427 | 1 => 256 | _ => 214

/-- A stolen lowest outstanding unit whose home workshop is loom l's (R191). -/
def reclaimable (s : State) (l : Nat) : Option (TakenUnit × TileSt) :=
  s.eng.taken.findSome? fun k =>
    match tileOf s k.unit with
    | some t =>
      if k.stolen != 0 && unitOrd s k.unit == t.next && workshopOf (unitHome s k.unit) == workshopOf l &&
          !(s.eng.taken.any fun j => j.unit == k.unit && j.loom != k.loom) then some (k, t) else none
    | none => none

/-- The home workshop runs the unit itself; the thief's copy is cancelled if it has not begun streaming (R191). -/
def reclaim (s : State) (l : Nat) : State :=
  match reclaimable s l with
  | none => s
  | some (k, t) =>
    let s := advanceTo s (t.since + reclaimNs s)
    let x := loomAt s k.loom
    -- not begun: its first load still stands in the shadow registers
    let waiting := match x.shadow with | some ld => ld.unit == k.unit && ld.load == 0 | none => false
    let s :=
      if waiting then
        let s := setLoom s k.loom { x with shadow := none, loadWait := false }
        let s := dropUnitRuns { s with eng := { s.eng with taken := s.eng.taken.erase k } } k.loom k.unit
        noteMiss s k.loom
      else s
    beginUnit (bump s (0xB00 + workshopOf l)) l k.unit 0

/-! ### The rows -/

/-- Dispatch is paused by the Purse or the thermal limit (R457, R470). -/
def paused (s : State) : Bool := s.pow.pausePurse || s.pow.pauseThermal

/-- LOOM_TAKE_UNIT (R184, R190, R457): a loom with free shadow registers takes a unit, unless dispatch is paused. -/
def execLoomTakeUnit (loom : Fin 512) (s : State) : Host.Outcome State Fault Refusal :=
  .next (
    if enginesRun s && !paused s && (loomAt s loom.val).shadow.isNone && loomOn s loom.val then
      takeUnit (noteMiss s loom.val) loom.val
    else s)

/-- LOAD_WAVEFRONT (R100). -/
def execLoadWavefront (loom : Fin 512) (s : State) : Host.Outcome State Fault Refusal :=
  .next (if enginesRun s then loadWavefront s loom.val else s)

/-- SHADOW_SWAP (R101). -/
def execShadowSwap (loom : Fin 512) (s : State) : Host.Outcome State Fault Refusal :=
  .next (if enginesRun s then shadowSwap s loom.val else s)

/-- CELL_HANDSHAKE (R51). -/
def execCellHandshake (loom : Fin 512) (row col : Fin 64) (s : State) : Host.Outcome State Fault Refusal :=
  .next (if enginesRun s then cellHandshake s loom.val row.val col.val else s)

/-- PARTIAL_ARRIVAL (R188, R192). -/
def execPartialArrival (loom : Fin 512) (s : State) : Host.Outcome State Fault Refusal :=
  .next (if enginesRun s then partialArrives s loom.val else s)

/-- RECLAIM_WINDOW_EXPIRY (R191): the loom is the free one of the home workshop. -/
def execReclaimWindowExpiry (loom : Fin 512) (s : State) : Host.Outcome State Fault Refusal :=
  .next (
    if enginesRun s && (loomAt s loom.val).shadow.isNone && (loomAt s loom.val).active.isNone && loomOn s loom.val then
      reclaim s loom.val
    else s)

end Sys2Proof.Machine
end

