-- ==== Sys2Proof/Machine/Output.lean ====
section
/-! DEFINITION. The output stage: values, bias, clip and conversion, the exception record of a tile and the step's ledger,
sampled ledger tiles, and the end of an operation (R79 to R91, R111 to R122, R142 to R144, R179). -/

namespace Sys2Proof.Machine

/-! ### A column computed at once -/

/-- The partial of one column for one k-tile and pass from its element pairs, stationary first (R57 to R75, R82). -/
def columnPart (e : Entry) (flush : Bool) (k pass loom : Nat) (ps : List (Elem × Elem)) : Part :=
  let fs := fmtOf (eFmtS e)
  let fx := fmtOf (eFmtX e)
  let ip := ps.zipIdx
  if opLmode e then ip.foldl (fun (a : Part) p => lFold fs fx (elemLoc e k p.2 loom) p.1.1 p.1.2 a) {}
  else
    let fin := ip.filter fun p => finiteNonzero fs fx flush p.1.1 p.1.2
    let ops := fin.map fun p => (p.2, passOps (opMode e) fs fx flush pass p.1.1 p.1.2)
    let a := ip.foldl (fun (a : Part) p => classFold fs fx flush (elemLoc e k p.2 loom) p.1.1 p.1.2 a)
      { anchor := anchorOf (ops.map (·.2)) }
    ops.foldl (fun (a : Part) o => mFold (opMode e != .mWindowed) o.1 o.2.1 o.2.2 a) a

/-- One output element from the pairs of each k-tile (R60, R76). -/
def columnAcc (e : Entry) (flush : Bool) (loom : Nat) (pairs : Nat → List (Elem × Elem)) : Acc :=
  (List.range (ktCount e)).foldl (fun (a : Acc) k => (List.range (opPasses e)).foldl (fun (a : Acc) p =>
    accFold (opLmode e) a (columnPart e flush k p loom (pairs k))) a) {}

/-- The element at a place of memory, without any effect of the read. -/
def peekPlace (s : State) (bit w : Nat) : Elem :=
  let base := bit / 128 * 16
  let bs := (loadSpan s base ((bit + w + 7) / 8 - base)).2
  ⟨natOfBytes (bs.map (·.1)) / 2 ^ (bit - 8 * base) % 2 ^ w, bs.any fun b => b.2 != 0, false⟩

/-- The element that a run reads at a position, without any effect of the read; none from a buffer. -/
def peekElem (s : State) (r : Run) (pos : Nat) : Option Elem :=
  match placeAt (gatherRun s r pos).2 pos with
  | .pad => some ⟨0, false, true⟩
  | .marked _ _ => some ⟨0, true, false⟩
  | .buffer => none
  | .unread => none
  | .memory bit w _ => some (peekPlace s bit w)

/-- The pairs of k-tile k for loom-column index c and streamed index m of an operation, as its operands stand; a listed outlier
channel takes the lane's parameters (R122). None where a stream comes from a buffer. -/
def freshPairs (s : State) (e : Entry) (op : Nat) (lane : Option Nat) (c m k : Nat) : Option (List (Elem × Elem)) :=
  let g := guildOf (eL0 e)
  let rx := newRun s op g none (eArm e 0) []
  let rs := newRun s op g none (eArm e 1) []
  let get := fun (o : Nat) =>
    let x := peekElem s rx (m * eK e + ktWidth e * k + o)
    let w := match lane with
      | some ch => peekElem s { rs with direct := some (laneSource s e) } (ch * eK e + ktWidth e * k + o)
      | none => peekElem s rs (c * eK e + ktWidth e * k + o)
    match w, x with
    | some w, some x => some (w, x)
    | _, _ => none
  let ps := (List.range (ktLen e k)).map get
  if ps.all (·.isSome) then some (ps.filterMap id) else none

/-! ### Elements of an output tile -/

/-- The listed channel at column c of a tile, with its place in the list. -/
def listedAt (s : State) (op : Nat) (e : Entry) (t c : Nat) : Option Nat :=
  if eOutlier e then (opOutliers s op).idxOf? (tileCol e t + c) else none

/-- The outlier tile that computes list place i for output tile t (R120). -/
def laneTile (e : Entry) (t i : Nat) : Nat := tileCount e + i / 64 * streamTiles e + t % streamTiles e

/-- The accumulator of element (v, c) of output tile t. -/
def elemAcc (s : State) (op t v c : Nat) : Acc :=
  let e := stepOp s op
  let get := fun (tile key : Nat) => match tileOf s ⟨op, tile, 0, 0⟩ with | some x => mapGet x.acc key {} | none => {}
  match listedAt s op e t c with
  | some i => get (laneTile e t i) (64 * v + i % 64)
  | none => get t (64 * v + c)

/-- Every unit of the tile and of the outlier tiles it needs has been folded. -/
def tileFinished (s : State) (op t : Nat) : Bool :=
  let e := stepOp s op
  tileReady s op t && (List.range (tileCols e t)).all fun c =>
    match listedAt s op e t c with
    | some i => tileReady s op (laneTile e t i)
    | none => true

/-- The element's accumulator folds in L-mode. -/
def elemLmode (s : State) (op t c : Nat) : Bool :=
  (listedAt s op (stepOp s op) t c).isNone && opLmode (unitEntry s ⟨op, t, 0, 0⟩)

/-- The started operation's record. -/
def opRun (s : State) (op : Nat) : OpRun := mapGet s.eng.ops op ⟨0, 0x3F80, 0x3F80, 0x3F80, [], 0, [], 0⟩

def setOpRun (s : State) (op : Nat) (r : OpRun) : State := { s with eng := { s.eng with ops := mapSet s.eng.ops op r } }

/-- The product of the operand scales of an element (R112). -/
def elemScale (s : State) (op t c : Nat) : Dy :=
  let r := opRun s op
  let lane := (listedAt s op r.entry t c).isSome
  dyMul (if lane then dyNat 1 else bf16Val r.scaleS) (bf16Val r.scaleX)

/-- The narrow value of R112 step 1, and whether σ is set. -/
def elemX (s : State) (op t v c : Nat) : Num × Bool :=
  let a := elemAcc s op t v c
  match elemClass a with
  | .nan => (numNan, false)
  | .posInf => (numInf false, false)
  | .negInf => (numInf true, false)
  | .finite =>
    let (x, sg) := elemValue (elemLmode s op t c) a
    let y := dyMul x (elemScale s op t c)
    (numOf y, sg && !dyIsZero y)

/-- Min and max over infinities; no operand is NaN (R112, R114). -/
def numLe (x y : Num) : Bool :=
  match x.cls, y.cls with
  | .negInf, _ => true
  | _, .posInf => true
  | .finite, .finite => dyLe x.v y.v
  | _, _ => false

def numClip (x lo hi : Num) : Num :=
  let a := if numLe lo x then x else lo
  if numLe a hi then a else hi

/-! ### The bias stream (R111, R112) -/

/-- Output feature of an element (R96). -/
def featureOf (e : Entry) (t v c : Nat) : Nat := if eDataflow e = 2 then tileVec e t + v else tileCol e t + c

/-- Output features of a tile: the bias elements that its home loom's feeder reads for it (R111, R112). -/
def biasRange (e : Entry) (t : Nat) : Nat × Nat :=
  if eDataflow e = 2 then (tileVec e t, tileVec e t + tileVecsOf e t) else (tileCol e t, tileCol e t + tileCols e t)

/-- Tiles of a home loom, by its place in the loom range, in increasing order. -/
def homeTiles (e : Entry) (i : Nat) : List Nat := (List.range (tileCount e)).filter fun t => t % eNloom e == i

/-- The bias stream of slot 3 at a home loom's feeder: the features of its tiles, tile by tile (R111, R199). -/
def biasRun (s : State) (op : Nat) (e : Entry) (i : Nat) : Option Run :=
  match (if eBias e then tensorOf s (eTb e) else none) with
  | some x => some { Run.start op (some (biasUnit op)) [] 0 ((homeTiles e i).map (biasRange e)) with
                     direct := some (tdAddr x.desc, tdFmt x.desc) }
  | none => none

/-- Index of an element's bias in that stream. -/
def biasIndex (e : Entry) (t v c : Nat) : Nat :=
  let before := (List.range t).filter fun u => u % eNloom e == t % eNloom e
  (before.map fun u => (biasRange e u).2 - (biasRange e u).1).sum + (if eDataflow e = 2 then v else c)

/-- The bias element of an output element, once it has been delivered. -/
def biasElem (s : State) (op t v c : Nat) : Option Elem :=
  let e := stepOp s op
  match findRun s (feederOf (homeLoom e t)) 3 op (some (biasUnit op)) with
  | some r => mapFind r.got (biasIndex e t v c)
  | none => none

/-- A bias element as a number, its poison, and whether it is flushed; the flush is counted once for the operation, with the first
tile that uses the element (R41, R112, R130). -/
def readBias (s : State) (op t v c : Nat) : State × Num × Bool × Bool :=
  let e := stepOp s op
  let x := (biasElem s op t v c).getD (elemOf 0)
  let f := match tensorOf s (eTb e) with | some b => fmtOf (tdFmt b.desc) | none => .f32
  let fl := opFlush e && !x.poison && readFlushes f x.code
  let first := if eDataflow e = 2 then c == 0 && t / streamTiles e == 0 else v == 0 && t % streamTiles e == 0
  (if fl && first then flushInput s (eTb e) 1 else s, decode f (opFlush e) x.code, x.poison, fl)

/-! ### One element (R112 to R118) -/

/-- Flags of a tile record (R86). -/
def FLAG_INV : Nat := 1
def FLAG_NANIN : Nat := 2
def FLAG_FLUSH : Nat := 64

/-- What converting an element gives besides its code. -/
structure OutElem where
  elem   : Elem
  /-- y, where it is finite. -/
  y      : Option Dy := none
  flags  : Nat := 0
  strict : Nat := 0
  flush  : Bool := false
  sat    : Bool := false
  /-- An invalid event at the output stage (R87, kind 0b11). -/
  atStage : Bool := false
  deriving DecidableEq, Repr

/-- The rounding rule of a PURPOSE (R45). A log target never takes round to odd (R47); R109 and R413 refuse one as the host wrote it,
and where steering puts one in its place the conversion, which has no staging format then, rounds once, to nearest (DESIGN CHOICE,
log 76). -/
def purposeRule (f : Fmt) (purpose u : Nat) : Rule :=
  match purpose with
  | 1 => if f.isLog || f = .l16 then .nearest else .odd
  | 2 => .stochastic u
  | _ => .nearest

/-- Modes of conversion (R41, R42, R80). -/
def opRMode (nummode : Nat) : RMode := match nummode with | 0 => rFast | 1 => rStrict | _ => rMill

/-- Strict flag word of a conversion (R179). -/
def strictBits (c : Conv) : Nat := bit c.nv + 2 * bit c.dz + 4 * bit c.of + 8 * bit c.uf + 16 * bit c.nx

/-- The conversion of one element that is not poisoned, with its bias element and draw. Two points the spec leaves open: where
CLIP_LO = CLIP_HI and y already equals the bound with σ = 1, the clip replaces nothing and the bound is converted with its ε, as R113
and the pseudocode have it, against the table of R126 (log 71); and an outlier lane element of an operation with FMT_O L16, which has
no L-mode sum, is written as 0x0000 (log 72). Both are DESIGN CHOICE. -/
def convertElem (e : Entry) (a : Acc) (lm : Bool) (x : Num) (sg : Bool) (bias : Option Num) (scaleO : Dy) (u : Nat) : OutElem :=
  let fo := fmtOf (eFmtO e)
  let strict := eNummode e == 1
  let nan := fun (flags : Nat) (stage : Bool) =>
    let c := convert fo scaleO (opRMode (eNummode e)) .nearest numNan
    { elem := elemOf c.code, flags := flags ||| (if c.inv then FLAG_INV else 0), atStage := stage || c.inv,
      strict := if strict && (stage || c.inv) then 1 else 0 : OutElem }
  -- R42 brings a conversion into a narrow format from a sum, which has no format, under no IEEE 754-2019 flag
  let raised := fun (v : Conv) => if strict && fo.isIeee then strictBits v else 0
  let flushed := fun (y : Num) => match y.cls with
    | .finite => some y.v
    | _ => none
  match x.cls with
  | .nan => if fo = .l16 then { elem := elemOf 0x8000 } else nan 0 false
  | _ =>
    if fo = .l16 then
      let (c, fl) := lResult a
      { elem := elemOf c, y := flushed x, flush := fl, flags := if fl then FLAG_FLUSH else 0 }
    else
      let lfl := lm && (lResult a).2
      let y : Num := match bias with | some b => numAdd x b | none => x
      let biasNan : Bool := match bias with | some b => b.cls == .nan | none => false
      if y.cls == .nan then (if biasNan then nan FLAG_NANIN false else nan FLAG_INV true)
      else
        let dir : Int := if sg then (if dyIsNeg x.v then -1 else 1) else 0
        let c := if eClip e then numClip y (decode .bf16 false (eClipLo e)) (decode .bf16 false (eClipHi e)) else y
        let same := c.cls == y.cls && (c.cls != .finite || dyEq c.v y.v)
        let dir := if same then dir else 0
        let isZero := c.cls == .finite && dyIsZero c.v
        let v := if isZero && dir == 0 then zeroConv fo false
          else convert fo scaleO (opRMode (eNummode e)) (purposeRule fo (ePurpose e) u) c (if ePurpose e = 2 then 0 else dir)
        { elem := elemOf v.code, y := flushed c, strict := raised v, flush := v.flush || lfl,
          sat := v.sat, flags := if lfl then FLAG_FLUSH else 0 }

/-- What the workshop's Assayer slice takes from an element (R116, R130). Which of a layer's three flush counts a flushed result
joins is left open: the gradient's with PURPOSE gradient, else the weights' where T_O is the layer's weight tensor, else the
activations' (DESIGN CHOICE, log 73). A ledger operation that a plan names is tied to no layer (R80). -/
def reportElem (s : State) (op t : Nat) (o : OutElem) (accSat : Bool) : State :=
  let e := stepOp s op
  let l := eLayer e
  let s := match o.y with
    | some y =>
      let s := gather1 s (eTo e) y (some (t / streamTiles e)) none o.flush
      if ePurpose e = 2 ∨ eNummode e = 2 ∨ (layerOf s l).isNone then s
      else
        let x := layerStat s l
        setLayerStat s l { x with n := x.n + 1, squares := dyAdd x.squares (dyMul y y) }
    | none => s
  let which := if ePurpose e = 2 then 2
    else match layerOf s l with | some st => if stW st.desc = eTo e then 0 else 1 | none => 1
  if eNummode e = 2 then s else addSat (addFlush s l which (bit o.flush)) l (bit o.sat + bit accSat)

/-- The next element of tile t, number n in vector then column order. -/
def outputElement (s : State) (op t n : Nat) : State × OutElem :=
  let e := stepOp s op
  let cols := tileCols e t
  let v := n / cols
  let c := n % cols
  let home := homeLoom e t
  let a := elemAcc s op t v c
  let (s, u) := if ePurpose e = 2 then draw s (workshopOf home * 320 + 64 * (home % 4) + c) 0 else (s, 0)
  let s := if ePurpose e = 2 then countEvents s 5 (workshopOf home) 1 else s
  let (s, bias, bad, fl) := if eBias e then (let r := readBias s op t v c; (r.1, some r.2.1, r.2.2)) else (s, none, false, false)
  if a.poison || bad then
    let (s, code) := freeBelow s (2 ^ (fmtOf (eFmtO e)).width)
    (s, { elem := ⟨code, true, false⟩ })
  else
    let (x, sg) := elemX s op t v c
    let o := convertElem e a (elemLmode s op t c) x sg bias (bf16Val (opRun s op).scaleO) u
    let o := { o with flags := o.flags ||| (if fl then FLAG_FLUSH else 0) }
    (reportElem s op t o a.sat, o)

/-! ### The exception record (R86, R87) and the ledger (R89, R419) -/

/-- Flags of one element's accumulation (R86). -/
def accFlags (a : Acc) : Nat :=
  bit (invalidLoc a).isSome + 2 * bit a.firstNan.isSome + 4 * bit (a.firstPos.isSome || a.firstNeg.isSome) + 8 * bit a.sat +
    16 * bit a.poison + 32 * bit a.sticky + 64 * bit a.flush

/-- A tile's elements, in vector then column order. -/
def tileElems (e : Entry) (t : Nat) : List (Nat × Nat) :=
  (List.range (tileVecsOf e t)).flatMap fun v => (List.range (tileCols e t)).map fun c => (v, c)

/-- The location of the record: kind, loom, bench, row, column, load, k-tile, vector. For a product of an outlier lane column the spec
does not say which tile's place is meant: COL and BENCH are those of the channel's own column in this tile, LOOM, ROW and LOAD those
where the lane tile ran it (DESIGN CHOICE, log 74). -/
def tileLoc (s : State) (op t : Nat) (st : TileSt) : List (Nat × Nat × Nat) :=
  let e := stepOp s op
  let accs := (tileElems e t).map fun p => (p, elemAcc s op t p.1 p.2)
  let product := fun (kind : Nat) (p : (Nat × Nat) × Acc) (l : Loc) =>
    [(16, 8, l.loom), (20, 17, l.row / 16 * 4 + p.1.2 / 16), (26, 21, l.row), (32, 27, p.1.2), (34, 33, l.load), (36, 35, kind),
     (63, 37, l.kt), (95, 64, tileVec e t + p.1.1), (127, 96, t)]
  match accs.findSome? fun p => (invalidLoc p.2).map fun l => (p, l) with
  | some (p, l) => product 1 p l
  | none =>
    match st.biasAt with
    | some (v, c) => [(16, 8, homeLoom e t), (32, 27, c), (36, 35, 3), (95, 64, tileVec e t + v), (127, 96, t)]
    | none =>
      match accs.findSome? fun p => p.2.firstNan.map fun l => (p, l) with
      | some (p, l) => product 2 p l
      | none => [(127, 96, t)]

/-- The tile exception record (R86, R87). -/
def tileRecord (s : State) (op t : Nat) (st : TileSt) : BitVec 128 :=
  let flags := (tileElems (stepOp s op) t).foldl (fun f p => f ||| accFlags (elemAcc s op t p.1 p.2)) st.flags
  packRec 128 ((6, 0, flags) :: tileLoc s op t st)

/-- Rank of a location kind (R89). -/
def kindRank (k : Nat) : Nat := match k with | 1 => 3 | 3 => 2 | 2 => 1 | _ => 0

/-- The ledger with one more tile record (R89, R419): flags, counts, and the location of the highest kind, then the first by
operation and tile. -/
def ledgerAdd (led : BitVec 512) (op : Nat) (r : BitVec 128) : BitVec 512 :=
  let flags := fld r 6 0
  let led := setFld led 7 0 (fld led 7 0 ||| flags)
  let led := (List.range 7).foldl (fun (led : BitVec 512) i =>
    if flags.testBit i then setFld led (32 * i + 63) (32 * i + 32) (fld led (32 * i + 63) (32 * i + 32) + 1) else led) led
  let kind := fld r 36 35
  -- LOC holds record bits [127:8] from ledger bit 256 on
  let oldKind := fld led 284 283
  let oldOp := fld led 399 384
  let oldTile := fld led 375 344
  let better := decide (kindRank oldKind < kindRank kind) ||
    (kind != 0 && kindRank kind == kindRank oldKind && decide (op < oldOp ∨ (op = oldOp ∧ fld r 127 96 < oldTile)))
  if better then setFld (setFld led 375 256 (fld r 127 8)) 399 384 op else led

/-- Flags that join the ledger without a tile: INV of the vector unit and strict flags (R89, R179). -/
def ledgerFlags (s : State) (flags strict : Nat) : State :=
  let led := s.step.ledger
  { s with step := { s.step with ledger := setFld (setFld led 7 0 (fld led 7 0 ||| flags)) 20 16 (fld led 20 16 ||| strict) } }

/-! ### Sampled ledger tiles (R142 to R144) -/

/-- The pair at reduction offset o for column c and vector v of a tile's unit, from the inputs kept of its units. -/
def keptPair (s : State) (op tile v c o : Nat) : Option (Elem × Elem) :=
  let e := unitEntry s ⟨op, tile, 0, 0⟩
  let k := o / ktWidth e
  match tileOf s ⟨op, tile, 0, 0⟩ with
  | none => none
  | some t =>
    match t.inputs.find? fun x => x.1.pass == 0 && (eDataflow e == 1 || x.1.kt == k) with
    | none => none
    | some (u, xs, ws) =>
      match mapFind ws (runIndex e k (unitCols s u) c (o % ktWidth e)), mapFind xs (runIndex e k (unitVecs s u) v (o % ktWidth e)) with
      | some w, some x => some (w, x)
      | _, _ => none

/-- The ledger result of element (v, c) of tile t, in binary32 as R79 and R80 round it, its poison and its saturation, from the inputs
that the tile's units used; none where a unit has none. -/
def ledgerElem (s : State) (op t v c : Nat) : Option (Num × Bool × Bool) :=
  let e := stepOp s op
  let lane := listedAt s op e t c
  let (tile, col) := match lane with | some i => (laneTile e t i, i % 64) | none => (t, c)
  let e' := setFld (if lane.isSome then laneEntry e else unitEntry s ⟨op, t, 0, 0⟩) 131 130 2
  let pairs := (List.range (eK e)).map fun o => keptPair s op tile v col o
  if pairs.all (·.isSome) then
    let ps := pairs.filterMap id
    let a := columnAcc e' (opFlush e) 0 fun k => (ps.drop (ktWidth e' * k)).take (ktLen e' k)
    match elemClass a with
    | .nan => some (numNan, a.poison, a.sat)
    | .posInf => some (numInf false, a.poison, a.sat)
    | .negInf => some (numInf true, a.poison, a.sat)
    | .finite =>
      let x := convert .f32 (dyNat 1) rMill .nearest (numOf (dyMul (elemValue false a).1 (elemScale s op t c)))
      some (decode .f32 false x.code, a.poison, a.sat || x.sat)
  else none

/-- A sampled tile compared with its ledger results (R143); a ledger result that saturates is counted for the layer (R80). -/
def sampleTile (s : State) (op t : Nat) : State :=
  match sampledLayer s op t with
  | none => s
  | some l =>
    let n := stLayer l.desc
    let x := layerStat s n
    let rs := (tileElems (stepOp s op) t).filterMap fun p => (ledgerElem s op t p.1 p.2).map fun y => (p, y)
    let top := rs.foldl (fun (m : Dy) r => if r.2.1.cls == .finite then dyMax m (dyAbs r.2.1.v) else m) dyZero
    let allZero := rs.all fun r => r.2.1.cls == .finite && dyIsZero r.2.1.v
    let lim := dyMul top (dyPow2 (-(stAgShift l.desc : Int)))
    let (cmp, dis) := rs.foldl (fun (acc : Nat × Nat) r =>
      let a := elemAcc s op t r.1.1 r.1.2
      let y := (elemX s op t r.1.1 r.1.2).1
      if a.poison || r.2.2.1 then acc
      else if y.cls != r.2.1.cls then (acc.1 + 1, acc.2 + 1)
      else if y.cls != .finite then acc
      else (acc.1 + 1, acc.2 + bit (dyLt lim (dyAbs (dySub y.v r.2.1.v))))) (0, 0)
    let (cmp, dis) := if allZero then (0, 0) else (cmp, dis)
    setLayerStat s n { x with sampled := x.sampled + 1, compared := x.compared + cmp, disagree := x.disagree + dis,
                              sat := x.sat + (rs.filter fun r => r.2.2.2).length }

/-! ### Stage queues read by an operation (R341) -/

def sqQueue (r : BitVec 256) : Nat := fld r 5 0
def sqValid (r : BitVec 256) : Bool := bitOf r 6
def sqConsumes (r : BitVec 256) : Bool := bitOf r 7
def sqPeer (r : BitVec 256) : Nat := fld r 23 8
def sqSlots (r : BitVec 256) : Nat := fld r 30 24
def sqLines (r : BitVec 256) : Nat := fld r 63 32
def sqBase (r : BitVec 256) : Nat := fld r 111 64

/-- Addresses an operation reads from. -/
def readBases (e : Entry) : List Nat :=
  match eKind e with
  | 0 => [0, 1, 3].flatMap fun k => if armWaybill (eArm e k) = 0xFFFF then [] else (List.range 4).map (armBase (eArm e k))
  | 1 => [vX e, vY e, vZ e]
  | _ => [cSrc (eColl e)]

/-- The operation reads slot i of a queue. -/
def readsSlot (e : Entry) (r : BitVec 256) (i : Nat) : Bool :=
  let lo := sqBase r + 64 * (i * sqLines r)
  (readBases e).any fun a => decide (lo ≤ a) && decide (a < lo + 64 * sqLines r)

/-- Send n of a consumer queue has arrived whole (R342). -/
def slotFilled (q : StageQueue) (n : Nat) : Bool :=
  match mapFind q.filling n with
  | some (lines, some total) => decide (lines.length = total)
  | _ => false

/-- Slots that the operation reads are done with: those that follow the released ones in order are released, and their credits go back
in one CTRL frame, whose count cannot tell of a later slot before an earlier one (R341, R342; DEDUCED, log 77). -/
def releaseSlots (s : State) (e : Entry) : State :=
  s.fab.queues.foldl (fun s q =>
    let x := q.2
    if sqValid x.record && sqConsumes x.record then
      let mine := ((List.range (sqSlots x.record)).map (x.released + ·)).filter fun n =>
        slotFilled x n && readsSlot e x.record (n % sqSlots x.record)
      let done := x.readOut ++ mine.filter fun n => !x.readOut.contains n
      let rec go (fuel n : Nat) : Nat :=
        match fuel with
        | 0 => n
        | fuel + 1 => if done.contains n then go fuel (n + 1) else n
      let n := go (sqSlots x.record) x.released
      let x' := { x with released := n, readOut := done.filter fun k => decide (n ≤ k),
                         filling := x.filling.filter fun f => decide (n ≤ f.1) }
      if n = x.released then { s with fab := { s.fab with queues := mapSet s.fab.queues q.1 x' } }
      else
        let x := x'
        let s := { s with fab := { s.fab with queues := mapSet s.fab.queues q.1 x } }
        sendFrame s { type := 2, dest := sqPeer x.record, tag := q.1, op := 0xFFFFFFFE, offset := n % 2 ^ 32 }
    else s) s

/-! ### The end of an operation and of the operations (R179, R267, R276, R335, R341) -/

/-- Every operation of the step has completed. -/
def allOpsDone (s : State) : Bool := (List.range (stepEntries s).length).all fun i => mapGet s.step.ops i 0 == 2

/-- Every statistics write of the step has completed: the vote's result goes to the mills only then (R333). -/
def statsWritten (s : State) : Bool :=
  (List.range (stepEntries s).length).all fun i =>
    !(eKind (stepOp s i) == 2 && cSq (eColl (stepOp s i)) != 0) || mapGet s.step.ops i 0 == 2

/-- The mill phase begins once the vote is known and the statistics are written, other operations of the step still running or not; a
step with no VOTE descriptor has no vote to return and waits for its operations (R267, R333, R335, log 85). -/
def tryMillPhase (s : State) : State :=
  if s.step.active && s.step.phase == 0 && (if (voteOp s).isSome then statsWritten s else allOpsDone s) && s.fab.stale.isEmpty then
    match voteResult s with
    | some v => beginMillPhase s v (if ownVote s then 0 else s.step.causes)
    | none => s
  else s

/-- The tensor an entry writes. -/
def writtenTensor (e : Entry) : Nat := match eKind e with | 0 => eTo e | 1 => vTout e | _ => cTensor (eColl e)

/-- The entry gives layer l's output: a loom operation that is tied to the layer (R80, R130), or, for the gradient, an entry of any
kind that writes the watched gradient. -/
def givesLayer (s : State) (l : SteerLayer) (grad : Bool) (e : Entry) : Bool :=
  if grad then watchedGrad s l.desc != 0 && writtenTensor e == watchedGrad s l.desc
  else eKind e == 0 && eLayer e == stLayer l.desc && ePurpose e != 2 && eNummode e != 2

/-- Entries of the step that give layer l's output, or write its watched gradient, have all completed. -/
def layerComplete (s : State) (l : SteerLayer) (grad : Bool) : Bool :=
  (List.range (stepEntries s).length).all fun i => !givesLayer s l grad (stepOp s i) || mapGet s.step.ops i 0 == 2

/-- The local norm tests that an entry's completion makes possible (R159). -/
def normTests (s : State) (e : Entry) : State :=
  s.job.steer.foldl (fun s l =>
    let s := if givesLayer s l false e && layerComplete s l false then localNorm s l false else s
    if givesLayer s l true e && layerComplete s l true then localNorm s l true else s) s

/-- A forward gather that has completed is kept for the backward pass under the Retained policy, where its output lies in a guild store:
that is the model's reading of "when guild store space allows" (R12, R338; DEDUCED, log 78). -/
def keepGather (s : State) (e : Entry) : State :=
  let d := eColl e
  if eKind e = 2 ∧ cColl d = 1 ∧ cTagrec d ∧ s.job.gather = 1 ∧ storeBase ≤ cDst d then
    { s with fab := { s.fab with held := s.fab.held ++ [cGslot d] } }
  else s

/-- An operation completes: its strict flags join the ledger, its runs, outlier tiles and pending re-arms go, its stage queue
slots are released, and the norm tests and the mill phase follow where they can. -/
def completeOp (s : State) (op : Nat) : State :=
  let r := opRun s op
  let e := r.entry
  let s := trace s 3 1 op s.step.plan r.tiles
  let s := ledgerFlags s 0 r.strict
  let drop := fun (c : CarterSt) => { c with runs := (c.runs.map fun x => (x.1, x.2.filter fun q => q.op != op)).filter fun x => !x.2.isEmpty }
  let eng := { s.eng with tiles := s.eng.tiles.filter fun t => (keyUnit t.1).op != op
                          carters := (s.eng.carters.map fun c => (c.1, drop c.2)).filter fun c => c.2 != CarterSt.idle
                          armed := (s.eng.armed.map fun a => (a.1, a.2.filter (· != op))).filter fun a => !a.2.isEmpty }
  let s := { s with eng := eng, step := { s.step with ops := mapSet s.step.ops op 2 } }
  tryMillPhase (normTests (keepGather (releaseSlots s e) e) e)

/-- Carters that hold runs of a loom operation's output: the feeders of its looms. -/
def opFeeders (e : Entry) : List Nat := (List.range (eNloom e)).map fun i => feederOf (eL0 e + i)

/-- A loom operation is complete: every tile converted, every output written, every class 3 run done. -/
def loomOpDone (s : State) (op : Nat) : Bool :=
  let r := opRun s op
  let e := r.entry
  decide (r.tiles = tileCount e) && (opFeeders e).all fun c => [2, 3].all fun k =>
    (slotRuns s c k).all fun q => q.op != op || q.direct.isSome || decide (q.wrote = runLen q)

/-- A started loom operation is ended once it is complete. -/
def tryCompleteLoom (s : State) (op : Nat) : State :=
  if mapGet s.step.ops op 0 == 1 && eKind (stepOp s op) == 0 && loomOpDone s op then completeOp s op else s

/-! ### The row -/

/-- The tile that a home loom's output stage works on for an operation (R115). -/
def nextTile (s : State) (op home : Nat) : Option Nat :=
  let e := stepOp s op
  let i := home - eL0 e
  let t := i + eNloom e * mapGet (opRun s op).conv i 0
  if eL0 e ≤ home && i < eNloom e && t < tileCount e then some t else none

/-- The tile that a home loom's output stage converts next: that of the lowest started operation with a finished tile at the front of
its order there. R115 orders the tiles of one operation; between operations the model's order may change at any element (DESIGN
CHOICE, log 75). -/
def outputWork (s : State) (home : Nat) : Option (Nat × Nat) :=
  s.eng.ops.findSome? fun o =>
    if eKind o.2.entry = 0 ∧ mapGet s.step.ops o.1 0 = 1 then
      match nextTile s o.1 home with
      | some t => if tileFinished s o.1 t then some (o.1, t) else none
      | none => none
    else none

/-- A tile's last element has been converted: its record is written and folded, it is sampled and closed (R86, R190). -/
def closeTile (s : State) (op t : Nat) (st : TileSt) : State :=
  let e := stepOp s op
  let s := sampleTile s op t
  let rec_ := tileRecord s op t st
  let s := { s with step := { s.step with ledger := ledgerAdd s.step.ledger op rec_ },
                    eng := { s.eng with records := mapSet s.eng.records (tileKey ⟨op, t, 0, 0⟩) rec_ } }
  let r := opRun s op
  let i := homeLoom e t - eL0 e
  let s := setOpRun s op { r with tiles := r.tiles + 1, conv := mapUpd r.conv i 0 (· + 1) }
  { s with eng := { s.eng with tiles := mapErase s.eng.tiles (tileKey ⟨op, t, 0, 0⟩) } }

/-- Element number n of tile t has what it needs: its bias element, where the operation adds one (R111). -/
def elementHere (s : State) (op t n : Nat) : Bool :=
  let e := stepOp s op
  !eBias e || (tensorOf s (eTb e)).isNone || (biasElem s op t (n / tileCols e t) (n % tileCols e t)).isSome

/-- The output stage of a loom converts its next element. -/
def convertNext (s : State) (home : Nat) : State :=
  match outputWork s home with
  | none => s
  | some (op, t) =>
    let e := stepOp s op
    let key := tileKey ⟨op, t, 0, 0⟩
    let st := (tileOf s ⟨op, t, 0, 0⟩).getD (TileSt.opened (timebase s))
    let n := st.conv
    if !elementHere s op t n then s
    else
    let (s, o) := outputElement s op t n
    let cols := tileCols e t
    let at_ := if o.atStage && st.biasAt.isNone then some (n / cols, n % cols) else st.biasAt
    let st := { st with conv := n + 1, flags := st.flags ||| o.flags, biasAt := at_ }
    let s := setTile s key st
    let r := opRun s op
    let s := setOpRun s op { r with strict := r.strict ||| o.strict }
    let s := updRun s (feederOf home) 2 op none fun q => deliver q [o.elem]
    if cols * tileVecsOf e t ≤ n + 1 then tryCompleteLoom (closeTile s op t st) op else s

/-- OUTPUT_STAGE_CONVERT (R111 to R118). -/
def execOutputStageConvert (loom : Fin 512) (s : State) : Host.Outcome State Fault Refusal :=
  .next (if enginesRun s then convertNext s loom.val else s)

end Sys2Proof.Machine
end

