-- ==== Sys2Proof/Machine/Transfers.lean ====
section
/-! DEFINITION. The rows of transfers and streams, and the copy of a write-protected page that a write waits for (R212, R213,
R215, R218, R363). -/

namespace Sys2Proof.Machine

/-- The loom that a carter feeds, for a private feeder (R172). -/
def loomOf (c : Nat) : Option Nat := if c % 6 < 4 then some (c / 6 * 4 + c % 6) else none

/-- What follows the progress of a carter's streams: its loom may have ended its streaming, operations may have ended. -/
def afterStream (s : State) (c : Nat) : State :=
  let s := match loomOf c with | some l => settle s l | none => s
  (s.eng.ops.map (·.1)).foldl tryCompleteLoom s

/-- TRANSFER_ISSUE (R212, R213): the slot's next requests, unless 8 transfers are outstanding or its stream waits for a
buffer. -/
def execTransferIssue (carter : Fin 768) (slot : Fin 4) (s : State) : Host.Outcome State Fault Refusal :=
  .next (
    if !enginesRun s || decide (8 ≤ outstanding (carterAt s carter.val)) then s
    else
      match currentRun s carter.val slot.val with
      | some r => if r.wait.isSome then s else afterStream (slotStep s carter.val slot.val) carter.val
      | none => s)

/-- TRANSFER_COMPLETE (R213, R223, R224). -/
def execTransferComplete (carter : Fin 768) (index : Nat) (s : State) : Host.Outcome State Fault Refusal :=
  .next (if enginesRun s then afterStream (completeXfer s carter.val index) carter.val else s)

/-- The buffer that a waiting run waits for has what it needs. -/
def waitOver (s : State) (r : Run) : Bool :=
  match r.wait with
  | some (b, true, _) => bufRoom s b (posFmt r (posAt r.ranges r.wr)).width
  | some (b, false, _) => !(bufAt s b).elems.isEmpty || !(bufAt s b).spill.isEmpty
  | none => false

/-- STREAM_RESUME (R218): a stream that waited for space or data goes on. -/
def execStreamResume (carter : Fin 768) (slot : Fin 4) (s : State) : Host.Outcome State Fault Refusal :=
  .next (
    match (if enginesRun s then currentRun s carter.val slot.val else none) with
    | some r => if waitOver s r then afterStream (slotStep s carter.val slot.val) carter.val else s
    | none => s)

/-- A write transfer waits for page v: a page of its bytes. -/
def writeWaits (s : State) (v : Nat) : Bool :=
  s.eng.carters.any fun c => c.2.xfers.any fun t =>
    t.write && t.data.isNone && (t.lo / 2 ^ 21 == v || (t.hi - 1) / 2 ^ 21 == v)

/-- WP_PAGE_COPY (R215, R363, R365): the Scrivener copies a write-protected page on the first write to it. -/
def execWpPageCopy (page : Fin 524288) (s : State) : Host.Outcome State Fault Refusal :=
  .next (if !stopped s && writeWaits s page.val then copyPage s page.val else s)

end Sys2Proof.Machine
end

