-- ==== Sys2Proof/Machine/Vector.lean ====
section
/-! DEFINITION. The vector units: correctly rounded operations, placement of elements on lanes, long accumulators, and the row
VECTOR_ELEMENT (R176 to R181, R293, R412). -/

namespace Sys2Proof.Machine

/-! ### exp2 and log2 to 2^−200 (R176; log 31) -/

/-- ⌊√n⌋ for n below 2^(2 × bits). -/
def natSqrt (bits n : Nat) : Nat := searchBits (fun k => decide (k * k ≤ n)) bits 0

/-- ⌊2^f × 2^256⌋ to within 2^−190, never above it, for f = F / 2^160 below 1, from the bits of F: root i is 2^(2^−i). -/
def exp2Frac (F : Nat) : (left : Nat) → (root acc : Nat) → Nat
  | 0, _, acc => acc
  | i + 1, root, acc =>
    let r := natSqrt 258 (root * 2 ^ 256)
    exp2Frac F i r (if F.testBit i then acc * r / 2 ^ 256 else acc)

/-- 2^x as an exact number, or one just below it with the flag set. -/
def exp2Of (x : Dy) : Dy × Bool :=
  if dyLe (dyNat 4096) x then (dyPow2 4096, false)
  else if dyLe x (dyNat 4096 |> dyNeg) then (dyPow2 (-4096), false)
  else
    let v := (dyTrunc x (-160)).1
    let n := v / (2 ^ 160 : Nat)
    let F := (v % (2 ^ 160 : Nat)).toNat
    if F = 0 then (dyPow2 n, false) else (⟨exp2Frac F 160 (2 ^ 257) (2 ^ 256), n - 256⟩, true)

/-- The first binary digits of log2 of s / 2^256 in [1, 2), by squaring. -/
def log2Digits : (left : Nat) → (s acc : Nat) → Nat
  | 0, _, acc => acc
  | i + 1, s, acc =>
    let q := s * s / 2 ^ 256
    if 2 ^ 257 ≤ q then log2Digits i (q / 2) (2 * acc + 1) else log2Digits i q (2 * acc)

/-- log2 of a positive number, exact or just below with the flag set. -/
def log2Of (x : Dy) : Dy × Bool :=
  let k := dyLog2 x
  let s := dyAt x (k - 256)
  if s = (2 ^ 256 : Nat) then (⟨k, 0⟩, false)
  else (⟨k * (2 ^ 200 : Nat) + log2Digits 200 s.toNat 0, -200⟩, true)

/-! ### Operations on numbers (R176, R177) -/

/-- Round to nearest with an infinitesimal above where the flag is set. -/
def roundVec (f : Fmt) (md : RMode) (r : Dy × Bool) : Conv :=
  convert f (dyNat 1) md .nearest (numOf r.1) (if r.2 then 1 else 0)

/-- A NaN result, invalid where no input was one. -/
def nanVec (f : Fmt) (md : RMode) (inputNan : Bool) : Conv := { code := nanCode f, nv := md.ieee && !inputNan }

/-- A result number rounded. -/
def numVec (f : Fmt) (md : RMode) (inputNan : Bool) (r : Num) : Conv :=
  match r.cls with
  | .nan => nanVec f md inputNan
  | _ => convert f (dyNat 1) md .nearest r

/-- IEEE 754-2019 minimum (`up` false) or maximum. -/
def pickVec (up : Bool) (x y : Num) : Num :=
  if x.cls == .nan || y.cls == .nan then numNan
  else
    let bothZero := x.cls == .finite && y.cls == .finite && dyIsZero x.v && dyIsZero y.v
    let xFirst := if bothZero then x.neg else numLe x y
    if xFirst != up then x else y

/-- 1/√x. -/
def rsqrtVec (f : Fmt) (md : RMode) (x : Num) : Conv :=
  match x.cls with
  | .nan => nanVec f md true
  | .negInf => nanVec f md false
  | .posInf => zeroConv f false
  | .finite =>
    if dyIsZero x.v then { code := infCode f x.neg, dz := md.ieee }
    else if dyIsNeg x.v then nanVec f md false
    else finishMag f false (roundMag f (dyNat 1) md .nearest fun d => dyCmp (dyNat 1) (dyMul (dyMul d d) x.v))

/-- 2^x. -/
def exp2Vec (f : Fmt) (md : RMode) (x : Num) : Conv :=
  match x.cls with
  | .nan => nanVec f md true
  | .posInf => { code := infCode f false }
  | .negInf => zeroConv f false
  | .finite => roundVec f md (exp2Of x.v)

/-- log2 x. -/
def log2Vec (f : Fmt) (md : RMode) (x : Num) : Conv :=
  match x.cls with
  | .nan => nanVec f md true
  | .posInf => { code := infCode f false }
  | .negInf => nanVec f md false
  | .finite =>
    if dyIsZero x.v then { code := infCode f true, dz := md.ieee }
    else if dyIsNeg x.v then nanVec f md false
    else roundVec f md (log2Of x.v)

/-- A comparison predicate (R412), and whether the operands are unordered. -/
def compareVec (pred : Nat) (x y : Num) : Bool × Bool :=
  let un := x.cls == .nan || y.cls == .nan
  let le := numLe x y
  let ge := numLe y x
  (if un then pred == 1 || pred == 6
   else match pred with
     | 0 => le && ge
     | 1 => !(le && ge)
     | 2 => !ge
     | 3 => le
     | 4 => !le
     | 5 => ge
     | _ => false, un)

/-- A signalling NaN of an IEEE-shaped format. -/
def isSnan (f : Fmt) (code : Nat) : Bool :=
  f.isIeee && (decode f false code).cls == .nan && !code.testBit (f.floatShape.1 - 1)

/-- The arithmetic operations other than compare, convert, lacc, lread and draw. -/
def arithVec (vop : Nat) (f : Fmt) (md : RMode) (x y z : Num) : Conv :=
  let nan := x.cls == .nan || y.cls == .nan
  match vop with
  | 0 => numVec f md nan (numAdd x y)
  | 1 => numVec f md nan (numAdd x (numNeg y))
  | 2 => numVec f md nan (numMul x y)
  | 3 => numVec f md (nan || z.cls == .nan) (numAdd (numMul x y) z)
  | 4 => numVec f md nan (pickVec false x y)
  | 5 => numVec f md nan (pickVec true x y)
  | 8 => divConv f md x y
  | 9 => sqrtConv f md x
  | 10 => rsqrtVec f md x
  | 11 => exp2Vec f md x
  | _ => log2Vec f md x

/-! ### Placement (R180, R181) -/

/-- Elements that lane `lane` of workshop w works of an operation. -/
def laneLen (e : Entry) (w lane : Nat) : Nat :=
  let o := 64 * (w - vW0 e) + lane
  if vW0 e ≤ w ∧ w < vW0 e + vNw e ∧ o < vCount e then (vCount e - o - 1) / (64 * vNw e) + 1 else 0

/-- Element i of a lane. -/
def laneElem (e : Entry) (w lane i : Nat) : Nat := 64 * (i * vNw e + (w - vW0 e)) + lane

def laneKey (op w lane : Nat) : Nat := 2 ^ 16 * op + 64 * w + lane
def laneAt (s : State) (op w lane : Nat) : Nat := mapGet s.eng.lanes (laneKey op w lane) 0

/-- The vector operations under way in a workshop, in the order in which they were issued (R293). -/
def vectorOps (s : State) (w : Nat) : List (Nat × Entry) :=
  s.eng.order.filterMap fun op =>
    let e := stepOp s op
    if eKind e == 1 && mapGet s.step.ops op 0 == 1 && decide (vW0 e ≤ w) && decide (w < vW0 e + vNw e) then some (op, e) else none

/-- Operations issued before one of the step and not complete. -/
def earlierOps (s : State) (op : Nat) : List Nat :=
  (s.eng.order.takeWhile (· != op)).filter fun i => mapGet s.step.ops i 0 != 2

/-- The place in the workshop's operations at which a lane stands. -/
def lanePlace (s : State) (ops : List (Nat × Entry)) (w lane : Nat) : Nat :=
  (ops.findIdx? fun o => decide (laneAt s o.1 w lane < laneLen o.2 w lane)).getD ops.length

/-- What a lane does next: it is at most 2 operations ahead of the slowest lane (R181). -/
def laneWork (s : State) (w lane : Nat) : Option (Nat × Entry) :=
  let ops := vectorOps s w
  let p := lanePlace s ops w lane
  let slow := (List.range 64).foldl (fun m l => min m (lanePlace s ops w l)) ops.length
  if p ≤ slow + 2 then ops[p]? else none

/-- Width in memory of what an operation writes. -/
def vecWidth (e : Entry) : Nat :=
  match vVop e with
  | 6 => 1
  | 15 => 32
  | _ => (fmtOf (vFmtOut e)).width

/-- Bit address of element i at a base, for codes of a width (R32). -/
def vecBit (base width i : Nat) : Nat :=
  if 8 ≤ width then 8 * base + i * width else 8 * (base + 4 * (i / perWord width)) + i % perWord width * width

/-- Bit address of the 32-bit word that holds element i at a base. -/
def vecWord (base width i : Nat) : Nat := if 8 ≤ width then vecBit base width i else 8 * (base + 4 * (i / perWord width))

/-- Bits [b, b + width) touch the 128-bit word at byte address a. -/
def touches (b width a : Nat) : Bool := b / 128 == a / 16 || (b + width - 1) / 128 == a / 16

/-- A vector operation still has an element to write into the word at a, on whichever lane of whichever workshop. -/
def vectorOwes (s : State) (op a : Nat) : Bool :=
  let e := stepOp s op
  vVop e != 13 && (List.range (vNw e)).any fun k => (List.range 64).any fun lane =>
    let w := vW0 e + k
    (List.range (laneLen e w lane - laneAt s op w lane)).any fun j =>
      touches (vecBit (vD e) (vecWidth e) (laneElem e w lane (laneAt s op w lane + j))) (vecWidth e) a

/-- A run of a carter still has an element to write into the word at a. -/
def runOwes (x : CarterSt) (r : Run) (a : Nat) : Bool :=
  decide (2 ≤ runClass r) && (List.range (runLen r)).any fun i =>
    (decide (r.wr ≤ i) || (x.xfers.any fun t => t.write && t.op == r.op && t.unit == r.unit && decide (t.first ≤ i) && decide (i < t.first + t.count))) &&
      (match writePlace r i with | .memory b w _ => touches b w a | _ => false)

/-- An earlier operation still has an element to write into the scratchpad word at address a (R181). -/
def wordAwaited (s : State) (op a : Nat) : Bool :=
  decide (scratchBase ≤ a) && decide (a < storeBase) && (earlierOps s op).any fun i =>
    if eKind (stepOp s i) = 1 then vectorOwes s i a
    else s.eng.carters.any fun c => c.2.runs.any fun k => k.2.any fun r => r.op == i && runOwes c.2 r a

/-- An earlier lacc into the accumulator has not completed (R181). -/
def laccAwaited (s : State) (op w : Nat) (e : Entry) : Bool :=
  (earlierOps s op).any fun i =>
    let p := stepOp s i
    eKind p == 1 && vVop p == 13 && vLacc p == vLacc e &&
      (List.range 64).any fun lane => decide (laneAt s i w lane < laneLen p w lane)

/-! ### One element -/

/-- Weight shape as the layer's forward operation reads it: output channels and elements per channel (R145, R166; log 28). -/
def weightShape (s : State) (h : Nat) : Nat × Nat :=
  let es := if s.step.active then stepEntries s else s.job.plans.flatMap fun p => p.2.entries
  let reads := fun (e : Entry) => eKind e == 0 && (if eDataflow e = 2 then eTx e else eTs e) == h
  match (es.find? fun e => reads e && ePurpose e != 2).or (es.find? reads) with
  | some e => (if eDataflow e = 2 then eM e else eN e, eK e)
  | none => (0, 0)

/-- The output channel of element i of an operation that writes a weight tensor. -/
def channelOf (s : State) (h addr width i : Nat) : Option Nat :=
  match s.job.steer.find? (fun l => stW l.desc == h), tensorOf s h with
  | some _, some t =>
    let k := (weightShape s h).2
    let off := if 8 ≤ width then (addr - tdAddr t.desc) * 8 / width else (addr - tdAddr t.desc) / 4 * perWord width
    if k = 0 then none else some ((off + i) / k)
  | _, _ => none

/-- The format element i of a convert is written in: its block's where the layer steers blocks (R140). -/
def convFmt (s : State) (e : Entry) (channel : Option Nat) : Fmt :=
  match channel, s.job.steer.find? fun l => stW l.desc == vTout e && stBlock l.desc && fld l.layer 9 8 == 0 with
  | some c, some l =>
    match l.blocks[c / 64]? with
    | some b => fmtOf (widthFmt (fld b 19 16))
    | none => fmtOf (vFmtOut e)
  | _, _ => fmtOf (vFmtOut e)

/-- A fault of the vector unit's own accesses (log 29). -/
def vecFault (s : State) (op w i kind addr : Nat) : State :=
  logFault s { kind := kind, cls := 3, carter := 6 * w + 4, op := op, first := i, last := i, addr := addr } true

/-- One operand read: its code, and whether it is poisoned. -/
def vecRead (s : State) (op w i base : Nat) (f : Fmt) : State × Nat × Bool :=
  let b := vecBit base f.width i
  let a := b / 8
  let n := (b + f.width + 7) / 8 - a
  let (s, bs) := loadSpan (countLines s a n) a n
  let code := natOfBytes (bs.map (·.1)) / 2 ^ (b - 8 * a) % 2 ^ f.width
  if bs.any fun x => x.2 == 2 then (vecFault s op w i 2 a, code, true)
  else if bs.any fun x => x.2 == 1 then (vecFault s op w i 1 a, code, true)
  else (s, code, false)

/-- Element i of operand k is the first read that the operation makes of that element, by element index and then operand: what an
operation reads more than once is one element (R130). -/
def firstRead (e : Entry) (f : Fmt) (k i : Nat) : Bool :=
  let b := vecBit ((vecReads e).getD k 0) f.width i
  (vecReads e).zipIdx.all fun x =>
    let d := b - 8 * x.1
    !(decide (8 * x.1 ≤ b) && d % f.width == 0 && decide (d / f.width < vCount e) &&
      decide (d / f.width < i ∨ (d / f.width = i ∧ x.2 < k)))

/-- Every operand of element i, with the flushed ones counted in Fast mode. -/
def vecOperands (s : State) (op w i : Nat) (e : Entry) : State × List Nat × Bool :=
  let f := fmtOf (vFmtIn e)
  (vecReads e).zipIdx.foldl (fun (acc : State × List Nat × Bool) x =>
    let (s, code, bad) := vecRead acc.1 op w i x.1 f
    let s := if vNummode e == 0 && !bad && readFlushes f code && firstRead e f x.2 i then
        flushInput s (tensorAt s (vecBit x.1 f.width i / 8)) 1 else s
    (s, acc.2.1 ++ [code], acc.2.2 || bad)) (s, [], false)

/-- The number that a code of operand k stands for: with the scale of its tensor where steering gave it a scaled format (R33, R128). -/
def vecNum (s : State) (e : Entry) (k code : Nat) : Num :=
  let f := fmtOf (vFmtIn e)
  let x := decode f (vNummode e == 0) code
  if f.scaled then { x with v := dyMul x.v (bf16Val (stepScale s (tensorAt s ((vecReads e).getD k 0)))) } else x

/-- x, or x × y, added into a long accumulator (R76, R82, R83). -/
def laccAdd (a : Acc) (x : Num) (y : Option Num) (poison : Bool) : Acc :=
  let here : Loc := ⟨0, 0, 0, 0⟩
  let p := match y with | some y => numMul x y | none => x
  let inNan := x.cls == .nan || (match y with | some y => y.cls == .nan | none => false)
  let a := { a with poison := a.poison || poison }
  match p.cls with
  | .nan => if inNan then { a with firstNan := a.firstNan <|> some here } else { a with firstInv := a.firstInv <|> some here }
  | .posInf => { a with firstPos := a.firstPos <|> some here }
  | .negInf => { a with firstNeg := a.firstNeg <|> some here }
  | .finite => longAdd a p.v

/-- An addition into a long accumulator is an invalid operation of IEEE 754-2019: 0 × ∞, or an infinity that meets one of the other
sign (R42, R179). -/
def laccInvalid (old : Acc) (x : Num) (y : Option Num) : Bool :=
  let p := match y with | some y => numMul x y | none => x
  let inNan := x.cls == .nan || (match y with | some y => y.cls == .nan | none => false)
  match p.cls with
  | .nan => !inNan
  | .posInf => old.firstNeg.isSome
  | .negInf => old.firstPos.isSome
  | .finite => false

/-- A long accumulator rounded (R78, R176). The read of a sum that became NaN without a NaN operand raises NV again (DEDUCED, log 62). -/
def lreadConv (f : Fmt) (md : RMode) (a : Acc) : Conv :=
  match elemClass a with
  | .nan => { code := nanCode f, nv := md.ieee && a.firstNan.isNone }
  | .posInf => { code := infCode f false }
  | .negInf => { code := infCode f true }
  | .finite => convert f (dyNat 1) md .nearest (numOf ⟨a.v, -368⟩) (if a.sticky then a.v.sign else 0)

/-- The result of element i: its code, width and poison, with its flags, statistics and draws; none for lacc. A vector operation has no
LAYER field, though R130 sends the flushes and saturations of results to the operation's LAYER: the model sends them to the layers
that steer or watch T_OUT (DESIGN CHOICE, log 61). -/
def vecResult (s : State) (op w lane i : Nat) (e : Entry) : State × Option (Nat × Bool) :=
  let strict := vNummode e == 1
  let md := if strict then rStrict else rFast
  let fi := fmtOf (vFmtIn e)
  let fo := fmtOf (vFmtOut e)
  let unit := 320 * w + 256 + lane
  let (s, codes, bad) := vecOperands s op w i e
  let num := fun (k : Nat) => vecNum s e k (codes.getD k 0)
  let snan := strict && codes.any (isSnan fi)
  let flags := fun (s : State) (c : Conv) =>
    let r := opRun s op
    let s := if strict then setOpRun s op { r with strict := r.strict ||| strictBits c ||| bit snan } else s
    let s := if c.flush then flushInput s (vTout e) 1 else s
    if c.sat then scaleSat s (vTout e) else s
  let poisoned := fun (s : State) (f : Nat) => let (s, c) := freeBelow s (2 ^ f); (s, some (c, true))
  let s := countEvents s 2 w 1
  match vVop e with
  | 6 =>
    if bad then poisoned s 1
    else
      let (r, un) := compareVec (vPred e) (num 0) (num 1)
      -- which of the two kinds of predicate an ordered comparison is, is not stated: NV on a NaN is a free value; so is the result of a
      -- PRED above 6, which nothing refuses and no table names (log 30)
      let (s, nv) := if strict && un && decide (2 ≤ vPred e) && vPred e != 6 then freeBelow s 2 else (s, 0)
      let (s, r) := if 6 < vPred e then freeBelow s 2 else (s, bit r)
      (flags s { code := 0, nv := nv == 1 }, some (r, false))
  | 7 =>
    let (s, u) := if vPurpose e = 2 then draw s unit 0 else (s, 0)
    let s := if vPurpose e = 2 then countEvents s 5 w 1 else s
    let ch := channelOf s (vTout e) (vD e) fo.width i
    let f := convFmt s e ch
    if bad then poisoned s f.width
    else
      let x := num 0
      let scale := if f.scaled then bf16Val (stepScale s (vTout e)) else dyNat 1
      let c := convert f scale md (purposeRule f (vPurpose e) u) x
      -- a flushed element is a flush event, no exact zero (R131)
      let flushed := c.flush || (!strict && readFlushes fi (codes.getD 0 0))
      let s := if x.cls == .finite then gather1 s (vTout e) x.v (ch.map (· / 64)) ch flushed else s
      let s := if c.inv then ledgerFlags s FLAG_INV 0 else s
      (flags s c, some (c.code, false))
  | 13 =>
    let key := 64 * w + vLacc e
    let old : Acc := mapGet s.eng.lacc key {}
    let y := if codes.length = 2 then some (num 1) else none
    let a := laccAdd old (num 0) y bad
    let s := { s with eng := { s.eng with lacc := mapSet s.eng.lacc key a } }
    (if bad then s else flags s { code := 0, nv := strict && laccInvalid old (num 0) y }, none)
  | 14 =>
    let a : Acc := mapGet s.eng.lacc (64 * w + vLacc e) {}
    if a.poison then poisoned s fo.width
    else let c := lreadConv fo md a; (flags s c, some (c.code, false))
  | 15 =>
    let (s, u) := draw s unit (vClass e)
    (countEvents s 5 w 1, some (u, false))
  | op' =>
    if bad then poisoned s fo.width
    else
      let c := arithVec op' fo md (num 0) (num 1) (num 2)
      (flags s c, some (c.code, false))

/-- The operation is complete once every element is done. -/
def tryCompleteVector (s : State) (op : Nat) : State :=
  let n := (s.eng.lanes.filter fun l => l.1 / 2 ^ 16 == op).foldl (fun n l => n + l.2) 0
  if vCount (stepOp s op) ≤ n then
    completeOp { s with eng := { s.eng with lanes := s.eng.lanes.filter fun l => l.1 / 2 ^ 16 != op } } op
  else s

/-- Lane `lane` of workshop w does element i of an operation and writes it (R176, R224). -/
def vecElement (s : State) (op w lane i : Nat) (e : Entry) : State :=
  let (s, r) := vecResult s op w lane i e
  let s := match r with
    | none => s
    | some (code, bad) =>
      let width := vecWidth e
      let b := vecBit (vD e) width i
      let s := countLines s (b / 8) (ceilDiv width 8)
      let (s, missing) := storeBits s (codePieces b width (vecWord (vD e) width i) code bad)
      if missing.isEmpty then s else vecFault s op w i 3 (b / 8)
  let k := laneKey op w lane
  tryCompleteVector { s with eng := { s.eng with lanes := mapSet s.eng.lanes k (mapGet s.eng.lanes k 0 + 1) } } op

/-- A lane's next element waits for a word it reads, for an accumulator, or for an earlier write to the line it writes (R174, R181). -/
def vecWaits (s : State) (op w lane : Nat) (e : Entry) : Bool :=
  let i := laneElem e w lane (laneAt s op w lane)
  let b := vecBit (vD e) (vecWidth e) i
  ((vecReads e).any fun a => wordAwaited s op (vecBit a (fmtOf (vFmtIn e)).width i / 8)) || (vVop e == 14 && laccAwaited s op w e) ||
    (vVop e != 13 && lineBusy s (b / 8) ((b + vecWidth e + 7) / 8) s.eng.issued)

/-- VECTOR_ELEMENT (R174, R176, R180, R181): a lane's next element, once what it reads has been written and no earlier write to the line
it writes is outstanding. -/
def execVectorElement (workshop : Fin 128) (lane : Fin 64) (s : State) : Host.Outcome State Fault Refusal :=
  .next (
    match (if enginesRun s then laneWork s workshop.val lane.val else none) with
    | none => s
    | some (op, e) =>
      let i := laneElem e workshop.val lane.val (laneAt s op workshop.val lane.val)
      if vecWaits s op workshop.val lane.val e then s else vecElement s op workshop.val lane.val i e)

end Sys2Proof.Machine
end

