-- ==== Sys2Proof/Machine/Admission.lean ====
section
/-! DEFINITION. What admission computes and checks: guaranteed times, the fallback reserve, steering descriptors, buffers, flow
graph, keys, seal space and plan entries (R124, R141, R151, R152, R166, R219, R242, R299, R328, R351, R362, R411, R413 to R415,
R533, R536). -/

namespace Sys2Proof.Machine

/-! ### Guaranteed times (R118, R124, R176, R193, R311) -/

/-- ns of n handshake times at operating point o (R93, R194). -/
def handshakeNs (o n : Nat) : Nat :=
  match o with
  | 0 => ceilDiv (5 * n) 6
  | 1 => ceilDiv n 2
  | _ => ceilDiv (5 * n) 12

/-- Handshake times that take in n ns at operating point o. -/
def nsHandshakes (o n : Nat) : Nat :=
  match o with
  | 0 => ceilDiv (6 * n) 5
  | 1 => 2 * n
  | _ => ceilDiv (12 * n) 5

/-- Guaranteed sustained rate of a channel at the data rate in use, in units of 10 MB/s (R233). -/
def channelRate (s : State) : Nat :=
  match s.ident.rate with
  | 9600 => 2048
  | 10667 => 2275
  | _ => 2731

/-- ns of n bytes on c channels at that rate. -/
def channelNs (s : State) (c n : Nat) : Nat := ceilDiv (100 * n) (c * channelRate s)

/-- What a stream asks of the memories: transfers, LPDDR6 transfers and lines, and lines of each on-chip bank. -/
structure Traffic where
  count : Nat
  lp    : Nat
  lines : Nat
  banks : List (Nat × Nat)
  last  : Place
  deriving DecidableEq, Repr

/-- The bank of an on-chip line: of a scratchpad by address bits [10:6], of a guild store by bits [11:6] (R173). -/
def bankOf (a : Nat) : Nat :=
  if a < storeBase then (a - scratchBase) / 0x400000 * 32 + a / 64 % 32
  else 2 ^ 16 + (a - storeBase) / 0x2000000 * 64 + a / 64 % 64

/-- One more element of a stream: it joins the transfer before it where R212 merges them. A gathered element, whose index is not read at
admission, counts as an LPDDR6 transfer of its own (DESIGN CHOICE, log 34). -/
def Traffic.add (t : Traffic) (p : Place) : Traffic :=
  match p with
  | .memory b _ _ =>
    let merged := adjacent t.last p
    let newLine := !(merged && (match t.last with | .memory a _ _ => a / 512 == b / 512 | _ => false))
    let onLp := decide (b / 8 < 2 ^ 40) || inHost (b / 8)
    { count := t.count + bit (!merged), lp := t.lp + bit (onLp && !merged), lines := t.lines + bit (onLp && newLine),
      banks := if newLine && !onLp then mapUpd t.banks (bankOf (b / 8)) 0 (· + 1) else t.banks, last := p }
  | .unread => { t with count := t.count + 1, lp := t.lp + 1, lines := t.lines + 1, last := p }
  | _ => { t with last := p }

/-- Handshake times of a stream at operating point o: four transfers a handshake time, one line a bank, and for LPDDR6 the latency with
eight transfers outstanding and the rate of its home guild's four channels (R173, R214, R233). -/
def streamTime (s : State) (o : Nat) (r : Run) : Nat :=
  let t := (List.range (runLen r)).foldl (fun (t : Traffic) i => t.add (placeAt r (posAt r.ranges i))) ⟨0, 0, 0, [], .pad⟩
  max (max (ceilDiv t.count 4) ((t.banks.map (·.2)).foldl max 0))
    (nsHandshakes o (max (ceilDiv t.lp 8 * 300) (channelNs s 4 (64 * t.lines))))

/-- Streaming nibbles n of an operation (R66, R123). -/
def streamNibbles (e : Entry) : Nat :=
  match opMode e with
  | .l => 1
  | .mSplit => 2
  | _ => nibbles (mWidth (fmtOf (eFmtX e)))

/-- Loads that a unit takes: those of its k-tile and pass, or all of the tile's in OS (R98). -/
def unitLoads (e : Entry) : Nat := if eDataflow e = 1 then ktCount e * opPasses e * opLoads e else opLoads e

/-- The engines as admission supposes them for one operation: steered formats by `pick`, the full outlier allowance listed, no block
narrower than its layer (R119, R141). -/
def planState (s : State) (pick : Nat → Option Nat) (e : Entry) (allow : Nat) : State :=
  let r : OpRun := ⟨steerEntry s pick e, 0, 0, 0, if eOutlier e then List.range allow else [], 0, [], 0⟩
  { s with eng := { EngSt.none with ops := [(0, r)] }, job := { s.job with steer := s.job.steer.map fun l => { l with blocks := [] } } }

/-- Handshake times of a unit: the larger of its loads' streaming and the times of its streams; and what its last load's streaming
exceeds the load by (R124, R214). -/
def unitTime (s : State) (o : Nat) (u : UnitId) : Nat × Nat :=
  let e := unitEntry s u
  let st := unitVecs s u * streamNibbles e
  let g := guildOf (unitHome s u)
  let ns := streamTime s o (newRun s 0 g (some u) (eArm e 0) (streamRanges s u))
  let nl := if isLane (stepOp s 0) u then
      streamTime s o { Run.start 0 (some u) [] 0 (loadRanges s u) with direct := some (laneSource s (stepOp s 0)) }
    else streamTime s o (newRun s 0 g (some u) (eArm e 1) (loadRanges s u))
  let loom := unitLoads e * max st 16
  (max loom (max ns nl), if max ns nl ≤ loom then max st 16 - st else 0)

/-- Handshake times of the operation of a planning state: the largest of its home looms' times, each its units' and no less than that of
its output port and output stream, with a reclaim window where units may be stolen (R118, R119, R124, R193, R214). -/
def loomTime (s : State) (o : Nat) : Nat :=
  let e := stepOp s 0
  let outB := ceilDiv (fmtOf (eFmtO e)).width 8
  let units := (opUnits s 0).foldl (fun (m : List (Nat × (Nat × Nat))) u =>
    let (t, slack) := unitTime s o u
    mapUpd m (unitHome s u) (0, 0) fun x => (x.1 + t, slack)) []
  let extra := if eDataflow e = 1 then 0 else 512
  units.foldl (fun (w : Nat) x =>
    let ts := (List.range (tileCount e)).filter fun t => homeLoom e t == x.1
    let out := (ts.map fun t => tileVecsOf e t * outB).sum
    let ranges := ts.flatMap fun t => (List.range (tileVecsOf e t)).map fun v =>
      let p := (tileVec e t + v) * eN e + tileCol e t
      (p, p + tileCols e t)
    let stream := streamTime s o (newRun s 0 (guildOf x.1) none (eArm e 2) ranges)
    max w (max (16 + x.2.1 - x.2.2) (max out stream) + extra)) 0

/-- Half handshake times of a vector operation: its slowest lane (R176). -/
def vectorHalves (e : Entry) : Nat :=
  let half := fmtOf (vFmtIn e) == .bf16 && (vVop e != 7 || fmtOf (vFmtOut e) == .bf16)
  let cost := match vVop e with
    | 14 => 8
    | 15 => 2
    | v => if 8 ≤ v && v ≤ 12 then 16 else if half then 1 else 2
  ceilDiv (vCount e) (64 * max (vNw e) 1) * cost

/-- ns of b payload bytes on the module's ports, at 1.186 TB/s (R311). -/
def portsNs (b : Nat) : Nat := ceilDiv b 1186

/-- ns of an exchange among n members of `units` items of `size` bytes, reduced by their owners and gathered: two phases (R311). -/
def reduceNs (n units size : Nat) : Nat := if n ≤ 1 then 0 else 2 * (portsNs ((n - 1) * ceilDiv units n * size) + 1000)

/-- ns of a collective by the bytes it moves in a direction: a broadcast leaves its root for every other member and reaches each of them
once (R311, R326, R333). -/
def collectiveNs (s : State) (d : BitVec 512) : Nat :=
  let g := groupOf s (cGroup d)
  let n := match g with | some g => gNmemb g | none => 1
  let isRoot := match g with | some g => gSelf g == cRoot d | none => true
  let bytes := packedBytes (fmtOf (cFmt d)) (cCount d)
  let phase := portsNs ((n - 1) * bytes) + 1000
  match cColl d with
  | 2 => 2 * phase
  | 5 => portsNs bytes + 1000
  | 4 => if isRoot then phase else portsNs bytes + 1000
  | 1 => if cTagonly d then 1000 else phase
  | 0 => phase + (if cSq d = 1 then reduceNs n (cNcols d) 80 else 0)
  | _ => phase

/-- ns of an entry at operating point o, its steered tensors in the formats that `pick` gives. -/
def entryNs (s : State) (pick : Nat → Option Nat) (o : Nat) (e : Entry) : Nat :=
  let allow := match layerOf s (eLayer e) with | some l => stAllow l.desc | none => 0
  match eKind e with
  | 0 => if eM e = 0 ∨ eN e = 0 then 0 else handshakeNs o (loomTime (planState s pick e allow) o)
  | 1 => handshakeNs o (ceilDiv (vectorHalves (steerEntry s pick e)) 2)
  | _ => collectiveNs s (eColl e)

/-- Buffers that the waybills of an operation fill and drain (R218). -/
def entryBuffers (s : State) (e : Entry) : List Nat × List Nat :=
  if eKind e ≠ 0 then ([], [])
  else
    let imgs := (List.range 4).map fun k => mapGet s.job.waybills (armWaybill (eArm e k)) []
    (imgs.flatMap wFills, imgs.flatMap wDrains)

/-- The operations that entry i comes after: its WAIT operations and those that fill a buffer it drains (R415). -/
def comesAfter (s : State) (es : List Entry) (i : Nat) : List Nat :=
  let drains := (entryBuffers s (es.getD i 0)).2
  eWaits (es.getD i 0) ++ (if drains.isEmpty then [] else
    (List.range i).filter fun j => (entryBuffers s (es.getD j 0)).1.any fun b => drains.contains b)

/-- The longest path through the WAIT and buffer edges (R415). -/
def longestPath (waits : List (List Nat)) (times : List Nat) : Nat :=
  let ends := (List.range times.length).foldl (fun (acc : List Nat) i =>
    let from_ := ((waits.getD i []).map fun w => acc.getD w 0).foldl max 0
    acc ++ [from_ + times.getD i 0]) []
  ends.foldl max 0

/-- The width admission counts for a steered tensor: its pin, else W_MAX (R141). -/
def admittedFmt (s : State) (h : Nat) : Option Nat :=
  if h = 0 then none
  else match s.job.steer.find? fun l => stW l.desc == h || stA l.desc == h with
    | some l =>
      let pin := if stW l.desc == h then l.pinWt else l.pinAct
      some (widthFmt (if pin = 0 then stWmax l.desc else pin))
    | none => none

/-! ### Merge messages (R336, R533) -/

/-- Column tiles of the loom operation among es that writes a tensor. -/
def activationBlocks (es : List Entry) (h : Nat) : Nat :=
  match es.find? fun e => eKind e == 0 && eTo e == h with
  | some e => ceilDiv (eN e) 64
  | none => 0

/-- Bytes of a layer's merge record: amax, counts and squares parts from offset 128 (R533). -/
def mergeParts (block : Bool) (n na : Nat) : Nat × Nat × Nat :=
  let pad := fun (x : Nat) => ceilDiv x 64 * 64
  let nb := ceilDiv n 64
  (pad (8 + 2 * nb + 2 * na + 2 * n), pad (840 + if block then 256 * nb else 0), pad 176)

/-- Bytes of a layer's whole merge record. -/
def mergeBytes (block : Bool) (n na : Nat) : Nat :=
  let (a, b, c) := mergeParts block n na
  128 + a + b + c

/-- Groups whose layers are merged, and steered layers of a group in increasing layer number. -/
def steerGroups (s : State) : List Nat :=
  ((s.job.steer.map fun l => stGroup l.desc).filter (· != 0xFFFF)).eraseDups
def layersOf (s : State) (g : Nat) : List SteerLayer := s.job.steer.filter fun l => stGroup l.desc == g

/-- Unsteered scaled tensors merged in group g, in increasing handle (R533). -/
def unsteeredOf (s : State) (g : Nat) : List Nat :=
  (s.job.tensors.filter fun e => scaledTensor e.2 && !steeredHandle s e.1 && !tdLocal e.2.desc && tdGroup e.2.desc == g).map (·.1)

/-- Groups with unsteered tensors. -/
def unsteeredGroups (s : State) : List Nat := (List.range 256).filter fun g => !(unsteeredOf s g).isEmpty

/-- ns of the boundary work: the merges at R311, and 200 µs (R415). -/
def boundaryNs (s : State) (es : List Entry) : Nat :=
  let members := fun (g : Nat) => match groupOf s g with | some r => gNmemb r | none => 1
  let steer := (steerGroups s).map fun g =>
    let ls := layersOf s g
    let size := (ls.map fun l => mergeBytes (stBlock l.desc) (weightShape s (stW l.desc)).1 (activationBlocks es (stA l.desc))).sum
    reduceNs (members g) ls.length (ceilDiv size (max ls.length 1))
  let loose := (unsteeredGroups s).map fun g => reduceNs (members g) 1 (128 + ceilDiv (2 * (unsteeredOf s g).length) 64 * 64)
  200000 + steer.sum + loose.sum

/-- ns of the seal: dirty pages and record at 49.4 GB/s a usable slot to the buddy, at most 4, and 2 µs; and a copy of each page that
the step may dirty, as if one home guild held them all (R233, R362, log 34). -/
def sealNs (s : State) : Nat :=
  let sd := s.job.sealDesc
  let slots := (usableSlots s (mkFrame s { type := 3, dest := sdBuddy sd, op := 0 })).length
  ceilDiv ((sdDirty sd + recPages s) * 0x200000 * 10) (494 * max slots 1) + 2000 + channelNs s 4 (sdDirty sd * 0x200000)

/-! ### Sampled tiles and the mill phase (R141, R281, R288) -/

/-- ns of the ledger tiles that a step samples of a forward operation that reads a steered weight tensor: one output tile in 2^SAMPLE,
each in ledger mode on one loom (R141, R142, R144). -/
def sampledNs (s : State) (o : Nat) (e : Entry) : Nat :=
  let w := if eDataflow e = 2 then eTx e else eTs e
  match (if eKind e = 0 ∧ ePurpose e ≠ 2 ∧ eNummode e ≠ 2 then s.job.steer.find? fun l => stW l.desc == w else none) with
  | some l =>
    if stSampleOff l.desc then 0
    else
      let x := setFld (steerEntry s (admittedFmt s) e) 131 130 2
      let tile := 16 + ktCount x * opPasses x * opLoads x * max (min 64 (eM x) * streamNibbles x) 16
      ceilDiv (tileCount x) (2 ^ stSample l.desc) * handshakeNs o tile
  | none => 0

/-- Elements of a tensor's records that have their home in guild g, from the pages' homes: 4 record bytes each for matrix and embedding
shards, 8 for vector shards. -/
def recordElems (s : State) (t : Tensor) (g : Nat) : Nat :=
  let pages := (tdPages t.desc).filter fun v => let e := peekEntry s (v * 2 ^ 21); pmValid e && pmHome e == g
  pages.length * 0x200000 / (if tdKind t.desc = 1 then 8 else 4)

/-- ns of the slowest mill: for every guild, a quarter of its records' bytes on each of its four channels, with bfloat16 gradients. The
rows that a step touches and the statistics of its shards are in descriptors that only a dispatch brings: those figures are free
(R281, R288, log 34). -/
def millNs (s : State) : State × Nat :=
  (List.range 16).foldl (fun (acc : State × Nat) g =>
    let elems := fun (k : Nat) => ((s.job.tensors.filter fun e => tdKind e.2.desc == k).map fun e => recordElems s e.2 g).sum
    let (s, touched) := freeBelow acc.1 (elems 2 + 1)
    let (s, stats) := freeBelow s (elems 0 + 3)
    let bytes := ceilDiv (10 * elems 0 + 18 * elems 1 + 10 * touched + 8 * (elems 2 - touched)) 4
    (s, max acc.2 (channelNs s 1 bytes + stats))) (s, 0)

/-! ### The fallback reserve (R151, R152) -/

/-- F = ⌊L_s × FB_ALLOW/256⌋ (R152). -/
def fallbackCount (s : State) : Nat := s.job.steer.length * s.job.fbAllow / 256

/-- Loom and stream time in ns that a layer's operations of one plan take above admission's on the rung with format c. -/
def rungExtra (s : State) (o : Nat) (l : SteerLayer) (c : Nat) (es : List Entry) : Nat :=
  let mine := fun (h : Nat) => h != 0 && (h == stW l.desc || h == stA l.desc)
  let pick := fun (h : Nat) => if mine h then some c else admittedFmt s h
  ((es.filter fun e => eKind e == 0 && (mine (eTs e) || mine (eTx e))).map fun e =>
    entryNs s pick o e - entryNs s (admittedFmt s) o e).sum

/-- ΔT of a layer on rungs 1, 2 and 3 at the present operating point, loom and stream time together, the largest over the job's plans
(R152). -/
def rungTimes (s : State) (l : SteerLayer) : List Nat :=
  [5, 7, 12].map fun c => (s.job.plans.map fun p => rungExtra s s.pow.opNow l c p.2.entries).foldl max 0

/-- The sum of the k largest of a list. -/
def largestSum (k : Nat) (xs : List Nat) : Nat :=
  match k with
  | 0 => 0
  | k + 1 =>
    let m := xs.foldl max 0
    m + largestSum k (xs.erase m)

/-- The fallback reserve: the F largest ΔT(layer, bfloat16) (R152). -/
def fallbackReserve (s : State) : Nat := largestSum (fallbackCount s) (s.job.steer.map fun l => l.extra.getD 2 0)

/-! ### Admission of a plan (R414 to R416) -/

/-- Guaranteed time and estimated energy of a plan at operating point o (R415). The estimate is free: the spec gives its coefficients as
fused constants and no count of the events it multiplies (log 34). -/
def planFigures (s : State) (es : List Entry) (o : Nat) : State × Nat × Nat :=
  let path := longestPath ((List.range es.length).map (comesAfter s es)) (es.map (entryNs s (admittedFmt s) o))
  let (s, mills) := millNs s
  let (s, est) := freeBelow s (2 ^ 32)
  (s, path + mills + boundaryNs s es + sealNs s + fallbackReserve s + (es.map (sampledNs s o)).sum, est)

/-- A plan with its figures at each operating point. -/
def figured (s : State) (p : Plan) : State × Plan :=
  let r := (List.range 3).foldl (fun (acc : State × Plan) o =>
    let (s, g, e) := planFigures acc.1 p.entries o
    (s, { acc.2 with guar := acc.2.guar ++ [g], est := acc.2.est ++ [e] })) (s, { p with guar := [], est := [] })
  (r.1, { r.2 with admitted := true })

/-! ### Checks of the arrays (R166, R219, R242, R299, R351, R411) -/

/-- Rows 1 to 4 of R166 on descriptor i, and rows 5 to 7, which need other objects. -/
def steerBad (s : State) (ds : List (BitVec 384)) (i : Nat) : Option Nat :=
  let d := ds.getD i 0
  let n := (weightShape s (stW d)).1
  let known := fun (h : Nat) => (tensorOf s h).isSome
  let own := match groupOf s (stGroup d) with | some g => memberAddr g (gSelf g) == ownAddr s | none => false
  let gradBad := stG d != 0 && (match tensorOf s (stG d) with | some t => narrow (tdFmt t.desc) | none => true)
  firstBad [(1, ((ds.map stLayer).take i).contains (stLayer d)),
    (2, decide (8 < stWmin d) || decide (8 < stWmax d) || decide (stWmax d < stWmin d) || decide (stWinit d < stWmin d) ||
      decide (stWmax d < stWinit d) || decide (8 < stPinWt d) || decide (8 < stPinAct d)),
    (3, stBlock d && (decide (4 < stWmax d) || decide (4 < stPinWt d))),
    (4, decide (8 < stRatio d) || decide (24 < stAgShift d) || decide (8 < stNormShift d)),
    (5, !stOutOff d && decide (n / 16 < stAllow d)),
    (6, stGroup d != 0xFFFF && (decide (255 < stGroup d) || !own)),
    (7, !known (stW d) || !known (stA d) || gradBad)]

/-- The first failing row of R166 in table order, with its descriptor. -/
def steersBad (s : State) (ds : List (BitVec 384)) : Option (Nat × Nat) :=
  let fails := (List.range ds.length).filterMap fun i => (steerBad s ds i).map fun r => (r, i)
  match (List.range 8).findSome? fun r => fails.find? fun x => x.1 == r with
  | some x => some x
  | none => none

/-- An edge of the flow graph: x fills a buffer that y drains (R219). -/
def flows (x y : List Byte) : Option Nat := (wFills x).find? fun b => (wDrains y).contains b

/-- Waybills that can be reached from those listed, one edge further. -/
def flowNext (ws : List (List Byte)) (reach : List (List Byte)) : List (List Byte) :=
  ws.filter fun y => reach.contains y || reach.any fun x => (flows x y).isSome

/-- Waybills that x reaches along one edge or more. -/
def flowReach (ws : List (List Byte)) (x : List Byte) : List (List Byte) :=
  (List.range ws.length).foldl (fun r _ => flowNext ws r) (ws.filter fun y => (flows x y).isSome)

/-- The buffers of a directed cycle, where the flow graph has one: that by which a waybill on it fills the next, and that which the
waybill drains (R219). -/
def flowCycle (ws : List (List Byte)) : Option (Nat × Nat) :=
  ws.findSome? fun w =>
    (ws.find? fun y => (flows w y).isSome && (y == w || (flowReach ws y).contains w)).bind fun y =>
      (flows w y).map fun b => (b, (wDrains w).headD b)

/-- The place of a buffer table entry: store kind, unit; and its lines (R414). -/
def bufPlace (b : BitVec 64) : Nat × Nat := (fld b 12 12, fld b 19 13)
def bufLines (b : BitVec 64) : Nat := fld b 39 22

/-- The first buffer with which the buffers of its store exceed their space (R242). -/
def buffersBad (bs : List (BitVec 64)) : Option Nat :=
  (List.range bs.length).findSome? fun i =>
    let b := bs.getD i 0
    let sum := (((bs.take (i + 1)).filter fun x => bufPlace x == bufPlace b).map bufLines).sum
    let limit := if fld b 12 12 = 0 then 16384 else 131072
    if limit < sum then some (fld b 11 0) else none

/-- Bytes of Assayer records a guild holds (R168 to R170, R242). -/
def assayBytes (s : State) (ds : List (BitVec 384)) (g : Nat) : Nat :=
  ((ds.filter fun d => stLayer d % 16 == g).map fun d =>
    256 + (if stBlock d then 8 * ceilDiv (weightShape s (stW d)).1 64 else 0) + (if stOutOff d then 0 else 4 * stAllow d)).sum

/-- Handles of the waybills that the plans need in guild g (R203, R411). -/
def guildWaybills (plans : List (Nat × Plan)) (g : Nat) : List Nat :=
  (plans.flatMap fun p => p.2.entries.flatMap fun e =>
    if eKind e = 0 ∧ eL0 e / 32 ≤ g ∧ g ≤ (eL0 e + eNloom e - 1) / 32 then
      ((List.range 4).map fun k => armWaybill (eArm e k)).filter (· != 0xFFFF)
    else []).eraseDups

/-- Bytes of waybill images a guild must hold (R411). -/
def guildImages (s : State) (plans : List (Nat × Plan)) (g : Nat) : Nat :=
  ((guildWaybills plans g).map fun h =>
    match mapFind s.job.waybills h with
    | some img => ceilDiv (32 + 8 * wLength img) 64 * 64
    | none => 0).sum

/-- LPDDR6 pages that the job leaves free, less those of the present trace ring where `ring` holds (R536). -/
def freePages (s : State) (ring : Bool) : Nat :=
  let tensors := (s.job.tensors.map fun e => (tdPages e.2.desc).length).sum
  framesFitted s - (tensors + s.job.spillPages + (if jobExists s then 1 else 0) + 8 * s.job.plans.length +
    (if ring then s.obs.pages.toNat else 0))

/-- Pages of the staging area and of the secure reserve. -/
def sealPages (s : State) : Nat := sdStagePages s.job.sealDesc + sdReservePages s.job.sealDesc

/-- What R351 requires of the buddy's reserve. -/
def reserveNeed (s : State) : Nat := (protectedPages s).length + 2 * sdDirty s.job.sealDesc + 2 * recPages s

/-- The case of R351 that fails, in the order listed; the third only against a reply already received, where the need of the buddy
rises above `before` (log 23). -/
def sealSpaceBad (before : Nat) (s : State) : Option Nat :=
  let sd := s.job.sealDesc
  firstBad [(1, decide (sdStagePages sd < sdDirty sd + 2 * recPages s)),
    (2, decide (freePages s true < sealPages s)),
    (3, match s.sealer.reserve with | some r => decide (before < reserveNeed s) && decide (r < reserveNeed s) | none => false)]

/-! ### Entries of a plan (R109, R211, R328, R413) -/

/-- Row 6 of R328 for entry i of a plan; what it says of earlier entries only where `all` holds. -/
def tagsBad (es : List Entry) (all : Bool) (i : Nat) (d : BitVec 512) : Bool :=
  let earlier := !all || (es.take i).any fun e => eKind e == 2 && cTagrec (eColl e) && cGslot (eColl e) == cGslot d
  ((cTagrec d || cTagchk d || cTagonly d) && cColl d != 1) || (cTagonly d && !cTagchk d) || (cTagchk d && !earlier)

/-- The first page of a base is mapped. -/
def baseMapped (s : State) (a : Nat) : Bool := spanMapped s a 1

/-- Where each operation reads an input and writes an output, and the tensors it uses (R326, R327, log 38). -/
def collBases (d : BitVec 512) : List Nat :=
  if cTagonly d then []
  else (cSrc d :: (if cColl d = 5 then [] else [cDst d])) ++ (if cSq d = 0 then [] else [cStat d])
def collTensors (d : BitVec 512) : List Nat :=
  match cColl d with
  | 0 => [cTensor d, cSrcTensor d]
  | 2 => [cTensor d, cSrcTensor d]
  | 1 => if cTagrec d || cTagchk d then [cTensor d] else []
  | _ => []

/-- The first failing row of R328 for entry i of a plan; what needs other entries or objects only where `all` holds. -/
def collBad (s : State) (es : List Entry) (all : Bool) (i : Nat) : Option Nat :=
  let d := eColl (es.getD i 0)
  let votes := (es.filter fun e => eKind e == 2 && cVote (eColl e)).length
  let fmt := (fmtOfCode (cFmt d)).getD .f32
  let g := groupOf s (cGroup d)
  let nm := match g with | some g => gNmemb g | none => 0
  let q := mapFind s.fab.queues (cQueue d)
  let small := match q with | some x => decide (sqLines x.record * 64 < packedBytes fmt (cCount d)) | none => false
  let noQueue := match q with | some x => !sqValid x.record || sqConsumes x.record | none => true
  firstBad [(1, decide (5 < cColl d) || cPurpose d == 1 || cPurpose d == 3 || cSq d == 3),
    (2, all && g.isNone),
    (3, (cColl d == 0 || cColl d == 2) && cFmt d != 8 && cFmt d != 12),
    (4, (cPurpose d == 2 && cColl d != 0 && cColl d != 2) || ((cSq d != 0 || cVote d) && cColl d != 0)),
    (5, all && cVote d && decide (1 < votes)),
    (6, tagsBad es all i d),
    (7, all && (cColl d == 4 || cColl d == 5) && decide (nm ≤ cRoot d)),
    (8, all && cColl d == 5 && small),
    (9, cSq d != 0 && (cNcols d == 0 || cCount d % max (cNcols d) 1 != 0)),
    (10, all && ((collTensors d).any (fun h => (tensorOf s h).isNone) || (collBases d).any (fun a => !baseMapped s a) ||
      (cColl d == 5 && noQueue)))]

/-- Refusal of entry i of a plan with a row of a rule. -/
def entryRefusal (code rule row i p : Nat) : Reply := refuseWith code rule row i { plan := p, opidx := i }

/-- What PLAN_LOAD refuses in entry i, from the entry alone (R413). -/
def entryOwn (s : State) (es : List Entry) (p i : Nat) : Option Reply :=
  let e := es.getD i 0
  if 3 ≤ eKind e ∨ (eWaits e).any (fun w => decide (i ≤ w)) then some (entryRefusal REFUSE_PLAN 413 0 i p)
  else match eKind e with
    | 0 => (blockBad e).map fun r => entryRefusal REFUSE_LOOM_BLOCK 109 r i p
    | 1 => if vectorBad e then some (entryRefusal REFUSE_VECTOR_OP 413 0 i p) else none
    | _ => (collBad s es false i).map fun r => entryRefusal REFUSE_COLL_DESC 328 r i p

/-- The layer's outlier allowance as R109 row 9 takes it: none without a descriptor or with OUTLIER_OFF. -/
def allowanceOf (s : State) (layer : Nat) : Nat :=
  match layerOf s layer with
  | some l => if stOutOff l.desc then 0 else stAllow l.desc
  | none => 0

/-- A vector operation on a workshop that is gated off (R413, R473, log 38). -/
def vectorObjects (s : State) (e : Entry) : Bool := (List.range (vNw e)).any fun i => !workshopOn s (vW0 e + i)

/-- What JOB_ADMIT and a dispatch refuse in entry i, a loom or a vector operation (R109, R182, R211, R413). -/
def entryBad (s : State) (es : List Entry) (p i : Nat) : Option Reply :=
  let e := es.getD i 0
  match eKind e with
  | 0 =>
    match blockObjects s e (allowanceOf s) with
    | some r => some (entryRefusal REFUSE_LOOM_BLOCK 109 r i p)
    | none => (slotsBad s e).map fun k => refuseWith REFUSE_WAYBILL 211 9 k { plan := p, opidx := i }
  | 1 => if vectorObjects s e then some (entryRefusal REFUSE_VECTOR_OP 413 0 i p) else none
  | _ => none

/-- Two loom operations arm feeders of one loom. -/
def sameFeeders (x e : Entry) : Bool :=
  decide (eL0 x < eL0 e + eNloom e) && decide (eL0 e < eL0 x + eNloom x)

/-- The slot that entry e re-arms in other formats than an earlier operation armed its persistent waybill with (R216, R217). -/
def rearmBad (s : State) (earlier : List Entry) (e : Entry) : Option Nat :=
  (List.range 4).find? fun k =>
    let h := armWaybill (eArm e k)
    let img := mapGet s.job.waybills h []
    wPersist img && earlier.any fun x => eKind x == 0 && armWaybill (eArm x k) == h && sameFeeders x e &&
      (emitBases img).any fun b => armFmt (eArm x k) b != armFmt (eArm e k) b

/-- The first loom operation of plan p that re-arms a slot in other formats, the plans taken in increasing number (R217). -/
def rearmsBad (s : State) (p : Nat) (es : List Entry) : Option Reply :=
  let before := (s.job.plans.filter fun x => decide (x.1 < p)).flatMap fun x => x.2.entries
  (List.range es.length).findSome? fun i =>
    let e := es.getD i 0
    if eKind e ≠ 0 then none
    else (rearmBad s (before ++ es.take i) e).map fun k => refuseWith REFUSE_WAYBILL 217 0 k { plan := p, opidx := i }

/-- The first failing condition of R328 in table order over the plan's descriptors, with the descriptor's entry (R328). -/
def collsBad (s : State) (p : Nat) (es : List Entry) : Option Reply :=
  let fails := (List.range es.length).filterMap fun i =>
    if eKind (es.getD i 0) = 2 then (collBad s es true i).map fun r => (r, i) else none
  ((List.range 11).findSome? fun r => fails.find? fun x => x.1 == r).map fun x => entryRefusal REFUSE_COLL_DESC 328 x.1 x.2 p

/-- What is refused of a plan: its first loom or vector operation that is refused, a slot re-armed in other formats, then its
descriptors (R109, R211, R217, R328, R413, log 83). -/
def planBad (s : State) (p : Nat) (x : Plan) : Option Reply :=
  ((List.range x.entries.length).findSome? fun i => entryBad s x.entries p i).or
    ((rearmsBad s p x.entries).or (collsBad s p x.entries))

end Sys2Proof.Machine
end

