-- ==== Sys2Proof/Machine/Tensors.lean ====
section
/-! DEFINITION. Commands that create and change what a job's steps work on: TENSOR_CREATE, TENSOR_SET, OPTSET_WRITE, PIN,
WAYBILL_LOAD, PLAN_LOAD and STEP_DISPATCH (R40, R162, R165 to R167, R211, R219, R238 to R240, R264 to R266, R283, R408 to R413,
R417, R534). -/

namespace Sys2Proof.Machine

/-! ### TENSOR_CREATE (R238 to R240, R408, R409) -/

/-- [a, a + n) lies in on-chip job space: scratchpads, or pages 3 to 15 of one guild store (R241, R242). -/
def inJobSpace (a n : Nat) : Bool :=
  (decide (scratchBase ≤ a) && decide (a + n ≤ storeBase)) ||
    (decide (storeBase ≤ a) && decide (a + n ≤ storeBase + 0x20000000) && decide (0x600000 ≤ (a - storeBase) % 0x2000000) &&
      decide ((a - storeBase) % 0x2000000 + n ≤ 0x2000000))

/-- Bytes that a tensor takes: whole pages in LPDDR6 (R409). -/
def tdSpan (d : BitVec 512) : Nat := if tdAddr d < 2 ^ 40 then pagesOf (tdBytes d) * 0x200000 else tdBytes d

/-- Two tensors overlap. -/
def overlap (x y : BitVec 512) : Bool := decide (tdAddr x < tdAddr y + tdSpan y) && decide (tdAddr y < tdAddr x + tdSpan x)

/-- The address range suits the placement: whole LPDDR6 pages, or on-chip job space (R408, R409). -/
def placeBad (d : BitVec 512) : Bool :=
  if tdPlace d = 2 then !inJobSpace (tdAddr d) (tdBytes d)
  else tdAddr d % 0x200000 != 0 || decide (2 ^ 40 < tdAddr d + tdSpan d)

/-- The first row of R409 that a descriptor fails. -/
def tensorBad (s : State) (d : BitVec 512) : Option Nat :=
  let h := fld d 31 0
  let code := fun (c : Nat) => c != 0 && !bf16PosNormal c
  firstBad [(1, h == 0 || (tensorOf s h).isSome), (2, tdFmt d == 15 || (tdKind d != 3 && tdFmt d != 12)),
    (3, tdPlace d == 3 || (tdKind d != 3 && tdPlace d == 2) || (tdKind d == 3 && decide (1 < fld d 39 38))),
    (4, tdBytes d == 0 || placeBad d || s.job.tensors.any fun e => overlap d e.2.desc),
    (5, !tdLocal d && (groupOf s (tdGroup d)).isNone), (6, code (fld d 175 160) || code (fld d 191 176))]

/-- Home of page i of a tensor (R240, R408). -/
def pageHome (d : BitVec 512) (i : Nat) : Nat := if tdPlace d = 1 then tdH0 d else (tdH0 d + i) % 16

/-- Homes and frames of the LPDDR6 pages of the job's tensors. -/
def usedFrames (s : State) : List (Nat × Nat) :=
  (s.job.tensors.flatMap fun e => tdPages e.2.desc).filterMap fun v =>
    let e := peekEntry s (v * 0x200000)
    if pmValid e then some (pmHome e, pmFrame e) else none

/-- A frame of a home that nothing uses: the lowest (log 8). -/
def freeFrame (used : List (Nat × Nat)) (limit h : Nat) : Option Nat :=
  (List.range (min limit (used.length + 1))).find? fun f => !used.contains (h, f)

/-- Page, home and frame of every LPDDR6 page of a tensor, none where too few fitted frames are free (R238, R409). -/
def placePages (s : State) (d : BitVec 512) : Option (List (Nat × Nat × Nat)) :=
  let vs := tdPages d
  if freePages s true < vs.length then none
  else
    let r := (List.range vs.length).foldl (fun (acc : Option (List (Nat × Nat × Nat) × List (Nat × Nat))) i =>
      match acc with
      | none => none
      | some (out, used) =>
        let h := pageHome d i
        match freeFrame used (framesPerHome s) h with
        | none => none
        | some f => some (out ++ [(vs.getD i 0, h, f)], used ++ [(h, f)])) (some ([], usedFrames s))
    r.map (·.1)

/-- A tensor as created (R284, R355, R408). -/
def newTensor (d : BitVec 512) : Tensor :=
  ⟨d, emptyHistory (fld d 31 0) d, packRec 128 [(79, 64, tdSm1 d), (80, 80, bit (tdFrozen d))]⟩

/-- TENSOR_CREATE (R409). -/
def cmdTensorCreate : Command := fun s r =>
  let d := BitVec.ofNat 512 (leAt r.payload 0 64)
  let h := fld d 31 0
  match tensorBad s d with
  | some row => (s, refuse REFUSE_TENSOR 409 row h)
  | none =>
    match placePages s d with
    | none => (s, refuse REFUSE_TENSOR_SPACE 409 0 h)
    | some pages =>
      let t := setTensor s h (newTensor d)
      match sealSpaceBad (reserveNeed s) t with
      | some row => (s, refuse REFUSE_SEAL_SPACE 351 row h)
      | none =>
        (pages.foldl (fun s p =>
          match entryAddr (p.1 * 0x200000) with
          | some ea => writeEntry s ea (pmEntry false (tdMethod d) false p.2.1 p.2.2 0)
          | none => s) t, done [])

/-! ### TENSOR_SET, OPTSET_WRITE, PIN (R37, R40, R162, R166, R264, R265, R283, R401) -/

/-- The tensor has a scale of its own: its format is scaled, or a steering descriptor gives it one (R33, R128). -/
def ownScale (s : State) (h : Nat) (t : Tensor) : Bool :=
  scaledTensor t || s.job.steer.any fun l => stW l.desc == h || stA l.desc == h

/-- An action of TENSOR_SET on a tensor: 1 freeze, 2 unfreeze, 3 pin the scale, 4 unpin, 5 clear the amax history, 6 set S (R406). -/
def setAction (t : Tensor) (action v : Nat) : Tensor :=
  match action with
  | 1 => { t with mill := setFld t.mill 80 80 1 }
  | 2 => { t with mill := setFld t.mill 80 80 0 }
  | 3 => { t with hist := setFld (setFld t.hist 47 32 v) 48 48 1 }
  | 4 => { t with hist := setFld t.hist 48 48 0 }
  | 5 => { t with hist := setFld (setFld t.hist 53 49 0) 319 64 0 }
  | 6 => { t with mill := setFld t.mill 79 64 v }
  | _ => t

/-- A TENSOR_SET takes effect. -/
def applyTensorSet (s : State) (h action v : Nat) : State :=
  match tensorOf s h with
  | some t => setTensor s h (setAction t action v)
  | none => s

/-- TENSOR_SET (R283, R401, R534): it takes effect at the next boundary. -/
def cmdTensorSet : Command := fun s r =>
  let p := r.payload
  let (h, action, v) := (leAt p 0 4, (byteAt p 4).toNat, leAt p 6 2)
  let row := fun (t : Tensor) => firstBad
    [(4, action == 0 || decide (6 < action) || ((action == 3 || action == 4) && !ownScale s h t)),
     (6, (action == 3 || action == 6) && !bf16PosNormal v)]
  match tensorOf s h with
  | none => (s, refuse REFUSE_TENSOR 534 5 0)
  | some t =>
    match row t with
    | some o => (s, refuse REFUSE_TENSOR 534 5 o)
    | none =>
      (putDue s (.tensorSet (BitVec.ofNat 32 h) action (BitVec.ofNat 16 v)), done [])

/-- The first condition of R265 that an optimiser set fails, in the order listed. -/
def optsetBad (v : Nat) : Option Nat :=
  let f := fun (i : Nat) => f32Num (natFld v (32 * i + 31) (32 * i))
  let finite := fun (i : Nat) => (f i).cls == .finite
  let unit := fun (i : Nat) => finite i && !dyIsNeg (f i).v && dyLt (f i).v (dyNat 1)
  let pos0 := fun (i : Nat) => finite i && !dyIsNeg (f i).v
  firstBad [(1, !unit 1 || !unit 2), (2, !(pos0 4 && !dyIsZero (f 4).v)), (3, !pos0 0 || !pos0 5), (4, !finite 3)]

/-- An optimiser set is in force. -/
def applyOptset (s : State) (n : Nat) (v : BitVec 256) : State :=
  { s with job := { s.job with optsets := mapSet s.job.optsets n v } }

/-- OPTSET_WRITE (R264, R265, R401): at once while no step runs, else at the next boundary. -/
def cmdOptset : Command := fun s r =>
  let n := (byteAt r.payload 0).toNat
  let v := leAt r.payload 8 32
  match optsetBad v with
  | some row => (s, refuse REFUSE_OPT_SET 265 row n)
  | none =>
    if stepRuns s then (putDue s (.optset n (BitVec.ofNat 256 v)), done []) else (applyOptset s n (BitVec.ofNat 256 v), done [])

/-- PIN (R166, R167, R425): applies at the next boundary. -/
def cmdPin : Command := fun s r =>
  let p := r.payload
  let (l, wt, act) := (leAt p 0 2, (byteAt p 2).toNat, (byteAt p 3).toNat)
  match layerOf s l with
  | none => (s, refuse REFUSE_PIN 425 0 l)
  | some x =>
    if stBlock x.desc && decide (4 < wt) && wt != 15 then (s, refuse REFUSE_PIN 166 3 l)
    else (putDue s (.pin l wt act), done [])

/-! ### WAYBILL_LOAD and PLAN_LOAD (R204, R211, R219, R411, R413) -/

/-- WAYBILL_LOAD (R211, R219, R411). -/
def cmdWaybillLoad : Command := fun s r =>
  let h := leAt r.payload 0 2
  let img := r.payload.drop 8
  match waybillCheck img with
  | some (row, item) => (s, refuse REFUSE_WAYBILL 211 row item)
  | none =>
    let ws := mapSet s.job.waybills h img
    match flowCycle (ws.map (·.2)) with
    | some (a, b) => (s, refuseWith REFUSE_STREAM_CYCLE 219 0 a { item2 := b })
    | none => ({ s with job := { s.job with waybills := ws } }, done [])

/-- PLAN_LOAD (R411, R413). -/
def cmdPlanLoad : Command := fun s r =>
  let (p, n) := ((byteAt r.payload 0).toNat, leAt r.payload 2 2)
  match fetchBytes s (leAt r.payload 8 8) (256 * n) with
  | (s, none) => (s, status DMA_FAULT)
  | (s, some bs) =>
    let es : List Entry := (List.range n).map fun i => BitVec.ofNat 2048 (leAt bs (256 * i) 256)
    match (List.range n).findSome? (entryOwn s es p) with
    | some rep => (s, rep)
    | none => ({ s with job := { s.job with plans := mapSet s.job.plans p ⟨es, false, 0, 0, [], []⟩ } }, done [])

/-! ### STEP_DISPATCH (R266, R371, R417) -/

/-- An address lies in a mapped page. -/
def mapped (s : State) (a : Nat) : Bool := reachable (peekEntry s a)

/-- Every record of a shard lies in mapped LPDDR6 pages, and the first is aligned (R257, R266). -/
def recordsBad (s : State) (d : BitVec 512) : Bool :=
  let size := recSize (udKind d)
  let n := udRecords d * size
  udRecBase d % size != 0 || (n != 0 && (decide (2 ^ 40 < udRecBase d + n) || !spanMapped s (udRecBase d) n))

/-- Row 9 of R266. -/
def basesBad (s : State) (d : BitVec 512) : Bool :=
  let inStore := decide (storeBase ≤ udStatBase d) && decide (udStatBase d < storeBase + 0x20000000)
  !mapped s (udGradBase d) || (udKind d == 2 && udTouchN d != 0 && !mapped s (udTouchBase d)) ||
    (udKind d != 1 && (!inStore || !mapped s (udStatBase d)))

/-- The optimiser set has been written, in force or due (R264, R266). -/
def optsetWritten (s : State) (n : Nat) : Bool :=
  (mapFind s.job.optsets n).isSome || s.job.due.any fun c => match c with | .optset m _ => m == n | _ => false

/-- The rows of R266 that descriptor i of a dispatch fails. -/
def updFails (s : State) (ds : List (BitVec 512)) (i : Nat) : List Nat :=
  let d := ds.getD i 0
  let k := udKind d
  let kindBad := match tensorOf s (udTensor d) with | some t => k == 3 || tdKind t.desc != k | none => k == 3
  let gradBad := match tensorOf s (udGTensor d) with
    | some t => tdFmt t.desc != (if udBf16 d then 12 else 8)
    | none => true
  let rows : List (Nat × Bool) :=
    [(1, (tensorOf s (udTensor d)).isNone || (ds.take i).any fun x => udTensor x == udTensor d), (2, kindBad), (3, gradBad),
     (4, !optsetWritten s (udOptSet d)), (5, k != 1 && (udCols d % 32 != 0 || decide (udRowsAll d < udRows d))),
     (6, k == 1 && (udRows d != 1 || udTouchN d != 0)),
     (7, (k == 0 && udTouchN d != 0) || (k == 2 && decide (udRows d < udTouchN d))), (8, recordsBad s d), (9, basesBad s d)]
  rows.filterMap fun x => if x.2 then some x.1 else none

/-- The first failing row of R266 in table order, with the first descriptor that fails it. -/
def updsBad (s : State) (ds : List (BitVec 512)) : Option (Nat × Nat) :=
  let fails := (List.range ds.length).map fun i => (i, updFails s ds i)
  (List.range 10).findSome? fun r => (fails.find? fun x => x.2.contains r).map fun x => (r, x.1)

/-- The step that a dispatch would run (R417). -/
def nextStep (s : State) : Nat := s.job.lastBegun.toNat + s.job.dispatches.length + 1

/-- Dispatch is refused because the module holds, or will hold after the barrier under way (R301, R371). -/
def holdsDispatch (s : State) : Bool := s.job.state == 3 || (s.job.dueHold != 0 && s.step.phase == 3)

/-- A dispatch whose plan and step are right: its descriptors and its plan's entries are checked (R266, R413, R417). -/
def acceptDispatch (s : State) (p : List Byte) (plan : Nat) (x : Plan) (n : Nat) : State × Reply :=
  match fetchBytes s (leAt p 16 8) (64 * n) with
  | (s, none) => (s, status DMA_FAULT)
  | (s, some bs) =>
    let ds : List (BitVec 512) := (List.range n).map fun i => BitVec.ofNat 512 (leAt bs (64 * i) 64)
    match updsBad s ds with
    | some (row, i) => (s, refuse REFUSE_MILL_DESC 266 row i)
    | none =>
      match planBad s plan x with
      | some rep => (s, rep)
      | none =>
        let t := nextStep s
        let d : Dispatch := ⟨plan, BitVec.ofNat 48 t, BitVec.ofNat 48 (leAt p 8 6), ds⟩
        ({ s with job := { s.job with dispatches := s.job.dispatches ++ [d], cursor := d.cursor } }, done (bytesOfNat 6 t))

/-- STEP_DISPATCH (R371, R417, R534). -/
def cmdStepDispatch : Command := fun s r =>
  let p := r.payload
  let plan := (byteAt p 0).toNat
  let n := leAt p 24 4
  if holdsDispatch s then (s, refuse REFUSE_JOB_HELD 371 0 0)
  else if s.job.state ≠ 2 then (s, refuse REFUSE_NOT_RUNNING 371 0 0)
  else match mapFind s.job.plans plan with
    | none => (s, refuse REFUSE_PLAN 534 10 0)
    | some x =>
      if !x.admitted then (s, refuse REFUSE_PLAN 534 10 0)
      else if 65536 < n then (s, refuse REFUSE_MILL_DESC 534 11 24)
      else if 2 ≤ s.job.dispatches.length then (s, status QUEUE_FULL)
      else if leAt p 2 6 ≠ nextStep s then (s, refuse REFUSE_STEP_ORDER 417 0 (nextStep s % 2 ^ 32))
      else acceptDispatch s p plan x n

/-! ### The rows -/

def execTensorCreate (rq : MbReq) (s : State) : Host.Outcome State Fault Refusal :=
  .next (mailboxRow 0x0020 cmdTensorCreate rq s)
def execTensorSetFreeze (rq : MbReq) (s : State) : Host.Outcome State Fault Refusal :=
  .next (mailboxRow 0x0021 cmdTensorSet (withAction rq 4 1) s)
def execTensorSetUnfreeze (rq : MbReq) (s : State) : Host.Outcome State Fault Refusal :=
  .next (mailboxRow 0x0021 cmdTensorSet (withAction rq 4 2) s)
def execTensorSetPinScale (rq : MbReq) (s : State) : Host.Outcome State Fault Refusal :=
  .next (mailboxRow 0x0021 cmdTensorSet (withAction rq 4 3) s)
def execTensorSetUnpinScale (rq : MbReq) (s : State) : Host.Outcome State Fault Refusal :=
  .next (mailboxRow 0x0021 cmdTensorSet (withAction rq 4 4) s)
def execTensorSetClearHistory (rq : MbReq) (s : State) : Host.Outcome State Fault Refusal :=
  .next (mailboxRow 0x0021 cmdTensorSet (withAction rq 4 5) s)
def execTensorSetS (rq : MbReq) (s : State) : Host.Outcome State Fault Refusal :=
  .next (mailboxRow 0x0021 cmdTensorSet (withAction rq 4 6) s)
def execOptsetWrite (rq : MbReq) (s : State) : Host.Outcome State Fault Refusal := .next (mailboxRow 0x0022 cmdOptset rq s)
def execPin (rq : MbReq) (s : State) : Host.Outcome State Fault Refusal := .next (mailboxRow 0x0023 cmdPin rq s)
def execWaybillLoad (rq : MbReq) (s : State) : Host.Outcome State Fault Refusal :=
  .next (mailboxRow 0x0028 cmdWaybillLoad rq s)
def execPlanLoad (rq : MbReq) (s : State) : Host.Outcome State Fault Refusal := .next (mailboxRow 0x0029 cmdPlanLoad rq s)
def execStepDispatch (rq : MbReq) (s : State) : Host.Outcome State Fault Refusal :=
  .next (mailboxRow 0x0030 cmdStepDispatch rq s)

end Sys2Proof.Machine
end

