-- ==== Sys2Proof/Machine/Boundary.lean ====
section
/-! DEFINITION. The step boundary: merge records, the Assayer's decisions, what commands change at a boundary, the Purse, and the
row BOUNDARY_WORK (R36, R129 to R164, R167 to R171, R277 to R279, R300, R301, R336, R401, R456, R533). -/

namespace Sys2Proof.Machine

/-! ### Merge records (R333, R336, R533) -/

/-- Pins of a layer in force for the next step: those of the commands due at this boundary (R167, R401). -/
def nextPins (s : State) (l : SteerLayer) : Nat × Nat :=
  (s.job.due.take s.assay.dueCount).foldl (fun (p : Nat × Nat) c =>
    match c with
    | .pin n wt act => if n = stLayer l.desc then (if wt = 15 then p.1 else wt, if act = 15 then p.2 else act) else p
    | _ => p) (l.pinWt, l.pinAct)

/-- A merged or reported amax as a bfloat16 code (R35). -/
def amaxCode (x : Dy) : Nat := bf16Up x

/-- A sum of squares in units of 2^−306: what lies below that is dropped or carried up, as a free bit says (R333, log 57). -/
def squareUnits (s : State) (x : Dy) : State × Nat :=
  let (q, lost) := dyTrunc x (-306)
  if !lost then (s, q.toNat) else let (s, up) := freeBelow s 2; (s, q.toNat + up)

/-- Agreement bytes of a layer (R533). -/
def agreement (s : State) (l : SteerLayer) : List Byte :=
  let (wt, act) := nextPins s l
  bytesOfNat 6 s.ident.jobStep.toNat ++ bytesOfNat 2 0 ++ bytesOfNat 2 (stLayer l.desc) ++ bytesOfNat 6 0 ++
    bytesOfNat 48 (setFld (setFld l.desc 31 28 wt) 35 32 act).toNat

/-- N output channels, na activation blocks and the sizes of the amax, counts and squares parts of a layer's record (R533). -/
def recordShape (s : State) (l : SteerLayer) : Nat × Nat × Nat × Nat × Nat :=
  let n := (weightShape s (stW l.desc)).1
  let na := activationBlocks (stepEntries s) (stA l.desc)
  let (a, c, q) := mergeParts (stBlock l.desc) n na
  (n, na, a, c, q)

/-- 32 histogram bins of 64 bits. -/
def binBytes (f : Nat → Nat) : List Byte := ((List.range 32).map fun i => bytesOfNat 8 (f i)).flatten

/-- The module's own merge record of a layer (R533). -/
def layerRecord (s : State) (l : SteerLayer) : State × List Byte :=
  let (n, na, a, c, q) := recordShape s l
  let nb := ceilDiv n 64
  let w := tensorStat s (stW l.desc)
  let x := tensorStat s (stA l.desc)
  let g := tensorStat s (watchedGrad s l.desc)
  let y := layerStat s (stLayer l.desc)
  let code := fun (v : Dy) => bytesOfNat 2 (amaxCode v)
  let amax := code w.amax ++ code x.amax ++ code g.amax ++ bytesOfNat 2 0 ++
    ((List.range nb).map fun i => code (mapGet w.blocks i dyZero)).flatten ++
    ((List.range na).map fun i => code (mapGet x.blocks i dyZero)).flatten ++
    ((List.range n).map fun i => code (mapGet w.channels i dyZero)).flatten
  let hist := fun (t : TensorStat) => binBytes fun i => mapGet t.hist i 0
  let u := fun (k : Nat) => bytesOfNat 8 k
  let counts := hist w ++ hist x ++ hist g ++ u w.zeros ++ u x.zeros ++ u g.zeros ++ u (y.flush.getD 0 0) ++ u (y.flush.getD 1 0) ++
    u (y.flush.getD 2 0) ++ u y.sat ++ u y.compared ++ u y.disagree ++
    (if stBlock l.desc then ((List.range nb).map fun b => binBytes fun i => mapGet w.blockHist (32 * b + i) 0).flatten else [])
  let (s', so) := squareUnits s y.squares
  let (s', sg) := squareUnits s' g.squares
  let squares := bytesOfNat 80 so ++ u y.n ++ bytesOfNat 80 sg ++ u g.n
  let agree := agreement s l
  (s', agree ++ agree ++ fitBytes amax a ++ fitBytes counts c ++ fitBytes squares q)

/-- The module's own unsteered amax record of a group (R533). -/
def unsteeredRecord (s : State) (g : Nat) : List Byte :=
  let hs := unsteeredOf s g
  let agree := bytesOfNat 6 s.ident.jobStep.toNat ++ bytesOfNat 2 0 ++ bytesOfNat 4 hs.length ++
    bytesOfNat 4 (crc32 (hs.map fun h => bytesOfNat 4 h).flatten) ++ bytesOfNat 48 0
  agree ++ agree ++ padTo 64 (hs.map fun h => bytesOfNat 2 (amaxCode (tensorStat s h).amax)).flatten

/-- Steering groups of the job's layers, the module alone (0xFFFF) among them. -/
def allSteerGroups (s : State) : List Nat := (s.job.steer.map fun l => stGroup l.desc).eraseDups

/-- An exchange among a group, or its own result at once where the module is alone (R129). -/
def beginMerge (s : State) (g phase : Nat) (units : List (List Byte)) : State :=
  match (if g = 0xFFFF then none else groupOf s g) with
  | some r => startXchg s r g phase 0 units
  | none => putXchg s ⟨g, phase, 0, units, some units, some units⟩

/-- The merge records of the layers of a group. -/
def groupRecords (s : State) (g : Nat) : State × List (List Byte) :=
  (layersOf s g).foldl (fun (acc : State × List (List Byte)) l =>
    let (s, b) := layerRecord acc.1 l
    (s, acc.2 ++ [b])) (s, [])

/-- The merges of a boundary begin (R336). -/
def beginMerges (s : State) : State :=
  let s := (allSteerGroups s).foldl (fun s g => let (s, us) := groupRecords s g; beginMerge s g 4 us) s
  (unsteeredGroups s).foldl (fun s g => beginMerge s g 6 [unsteeredRecord s g]) s

/-- How unit u of a boundary's exchange merges. -/
def mergeUnit (s : State) (x : Xchg) (u : Nat) (a b : List Byte) : List Byte :=
  if x.phase = 6 then mergeAmax a b
  else
    match (layersOf s x.group)[u]? with
    | some l => let (_, _, am, c, _) := recordShape s l; mergeRecord am c a b
    | none => a

/-- The boundary's exchanges go as far as what has arrived allows. -/
def advanceMerges (s : State) : State :=
  (s.fab.merges.filter fun x => decide (4 ≤ x.phase)).foldl (fun s x =>
    match groupOf s x.group with
    | some r => advanceXchg (mergeUnit s x) s r x
    | none => s) s

/-- Every merge of the boundary is complete. -/
def mergesDone (s : State) : Bool := s.fab.merges.all fun x => x.phase < 4 || x.result.isSome

/-! ### What a merged record says -/

/-- A layer's merged statistics (R130, R533). -/
structure Merged where
  amax     : List Nat
  blocks   : List Nat
  channels : List Nat
  /-- Histograms of weights, activations and gradient. -/
  hists    : List (List Nat)
  zeros    : List Nat
  flush    : List Nat
  sat      : Nat
  compared : Nat
  disagree : Nat
  blockHist : List (List Nat)
  /-- Sums of squares in units of 2^−306 and counts, of the output and of the gradient. -/
  squares  : List (Nat × Nat)
  deriving DecidableEq, Repr

/-- The statistics in the bytes of a layer's merged record. -/
def parseRecord (s : State) (l : SteerLayer) (bs : List Byte) : Merged :=
  let (n, na, a, c, _) := recordShape s l
  let nb := ceilDiv n 64
  let am := bs.drop 128
  let ct := bs.drop (128 + a)
  let sq := bs.drop (128 + a + c)
  let codes := fun (o k : Nat) => (List.range k).map fun i => leAt am (o + 2 * i) 2
  let bins := fun (o : Nat) => (List.range 32).map fun i => leAt ct (o + 8 * i) 8
  { amax := codes 0 3, blocks := codes 8 nb, channels := codes (8 + 2 * nb + 2 * na) n,
    hists := [bins 0, bins 256, bins 512], zeros := [768, 776, 784].map fun o => leAt ct o 8,
    flush := [792, 800, 808].map fun o => leAt ct o 8, sat := leAt ct 816 8, compared := leAt ct 824 8,
    disagree := leAt ct 832 8,
    blockHist := if stBlock l.desc then (List.range nb).map fun b => bins (840 + 256 * b) else [],
    squares := [(leAt sq 0 80, leAt sq 80 8), (leAt sq 88 80, leAt sq 168 8)] }

/-- The merged record of a layer. -/
def layerMerged (s : State) (l : SteerLayer) : List Byte :=
  let g := stGroup l.desc
  let i := ((layersOf s g).map fun x => stLayer x.desc).idxOf (stLayer l.desc)
  ((xchgResult s g 4 0).getD []).getD i []

/-- The first byte in which the AND and OR copies of an agreement part differ (R533). -/
def firstDiffer (bs : List Byte) : Option Nat := (List.range 64).find? fun i => byteAt bs i != byteAt bs (64 + i)

/-- Layers and groups whose merged records disagree: number, byte, and whether it is an unsteered record (R277). -/
def disagreements (s : State) : List (Nat × Nat × Bool) :=
  (s.job.steer.filterMap fun l => (firstDiffer (layerMerged s l)).map fun o => (stLayer l.desc, o, false)) ++
    (unsteeredGroups s).filterMap fun g => (firstDiffer (((xchgResult s g 6 0).getD []).getD 0 [])).map fun o => (g, o, true)

/-! ### The width decision (R135 to R140) -/

/-- The first bin that width w keeps: values below it are lost (R135). -/
def lostBelow (w : Nat) : Nat := [31, 30, 30, 28, 27, 26, 25, 24, 23].getD w 23

/-- Energy of bins [0, k) in units of bin 0 (R136). -/
def binEnergy (cnt : List Nat) (k : Nat) : Nat := ((List.range k).map fun i => cnt.getD i 0 * 4 ^ i).sum

/-- The candidate width w* before R137 (R136). -/
def candidate (cnt : List Nat) (tol wmin wmax : Nat) : Nat :=
  let e := binEnergy cnt 32
  if e = 0 then wmin
  else match (List.range (wmax + 1 - wmin)).find? fun i => decide (binEnergy cnt (lostBelow (wmin + i)) * 65536 ≤ tol * e) with
    | some i => wmin + i
    | none => wmax

/-- A tensor's or block's width, candidate and narrowing streak. -/
structure WidthSt where
  c      : Nat
  cand   : Nat
  streak : Nat
  deriving DecidableEq, Repr

/-- The width decision (R136 to R140). -/
def decideWidth (d : BitVec 384) (cnt : List Nat) (dis cmp wmin wmax pin : Nat) (calibrating : Bool) (x : WidthSt) : WidthSt :=
  let w := candidate cnt (stUtol d) wmin wmax
  let w := if cmp ≠ 0 ∧ stDtol d * cmp < dis * 65536 then max w (min (x.c + 1) wmax) else w
  if pin ≠ 0 then ⟨pin, w, 0⟩
  else if x.c < w then ⟨w, w, 0⟩
  else if w < x.c ∧ !calibrating then
    let k := min (x.streak + 1) 65535
    if stHyst d ≤ k then ⟨x.c - 1, w, 0⟩ else ⟨x.c, w, k⟩
  else ⟨x.c, w, 0⟩

/-! ### Outlier channels (R145 to R148) -/

/-- Numbers in increasing order. -/
def sortNat (xs : List Nat) : List Nat := xs.foldl (fun acc x => acc.takeWhile (· ≤ x) ++ [x] ++ acc.dropWhile (· ≤ x)) []

/-- Outlier candidates of a layer in increasing channel index (R145). -/
def outlierCands (l : SteerLayer) (m : Merged) : List Nat :=
  let nb := m.blocks.length
  let ref := bf16Val ((sortNat m.blocks).getD (ceilDiv nb 2 - 1) 0)
  let k := stRatio l.desc
  let listed := l.outliers.map BitVec.toNat
  if stOutOff l.desc || nb == 0 || dyIsZero ref then []
  else (List.range m.channels.length).filter fun c =>
    let a := bf16Val (m.channels.getD c 0)
    dyLe (dyMul (dyPow2 k) ref) a || (listed.contains c && dyLe (dyMul (dyPow2 ((k : Int) - 1)) ref) a)

/-- The candidates with the largest channel amax, ties to the lower index, in increasing index (R147). -/
def largestCands (m : Merged) (cands : List Nat) (a : Nat) : List Nat :=
  let keyed := sortNat (cands.map fun c => (m.channels.getD c 0) * 2 ^ 32 + (2 ^ 32 - 1 - c))
  sortNat ((keyed.drop (keyed.length - a)).map fun k => 2 ^ 32 - 1 - k % 2 ^ 32)

/-- An outlier list as its array of A entries (R170). -/
def outlierArray (d : BitVec 384) (cs : List Nat) : List (BitVec 32) :=
  if stOutOff d then [] else (List.range (stAllow d)).map fun i => BitVec.ofNat 32 (cs.getD i 0xFFFFFFFF)

/-! ### Items 3 to 5 for one layer -/

/-- What a boundary finds of a layer before rungs are granted. -/
structure Finding where
  layer    : SteerLayer
  m        : Merged
  norms    : List NormState
  /-- The merged output or gradient norm jumped. -/
  jumps    : List Bool
  cands    : List Nat
  wt       : WidthSt
  act      : WidthSt
  blocks   : List (BitVec 64)
  overflow : Bool
  /-- Overflow or norm promotion. -/
  trigger  : Bool
  deriving DecidableEq, Repr

/-- A running norm with the merged sum of squares and count of a step (R155 to R157). -/
def normFinding (l : SteerLayer) (m : Merged) (grad : Bool) : NormState × Bool :=
  let (sq, n) := m.squares.getD (bit grad) (0, 0)
  let x := normOf l.layer grad
  if n = 0 then (x, false) else normStep (stNormK l.desc) (stNormShift l.desc) x (rmsCode ⟨sq, -306⟩ n)

/-- Some tensor of the layer is in calibration in the step (R139). -/
def layerCalibrates (s : State) (l : SteerLayer) : Bool :=
  inCalibration s (stW l.desc) || inCalibration s (stA l.desc) || inCalibration s (watchedGrad s l.desc)

/-- A block's record: amax, width, candidate, streak, listed channels (R169). -/
def blockRecord (amax : Nat) (x : WidthSt) (listed : Nat) : BitVec 64 :=
  packRec 64 [(15, 0, amax), (19, 16, x.c), (23, 20, x.cand), (47, 32, x.streak), (63, 48, min listed 65535)]

/-- Items 3 to 5 of R133 for one layer. -/
def findLayer (s : State) (l : SteerLayer) : Finding :=
  let d := l.desc
  let m := parseRecord s l (layerMerged s l)
  let cal := layerCalibrates s l
  let (pinW, pinA) := nextPins s l
  let (no, jo) := normFinding l m false
  let (ng, jg) := normFinding l m true
  let cands := outlierCands l m
  let isOver := decide (stAllow d < cands.length)
  let r := l.layer
  let wt := decideWidth d (m.hists.getD 0 []) m.disagree m.compared (stWmin d) (stWmax d) pinW cal ⟨fld r 3 0, fld r 23 20, fld r 47 32⟩
  let act := decideWidth d (m.hists.getD 1 []) m.disagree m.compared (stWmin d) (stWmax d) pinA cal ⟨fld r 7 4, fld r 27 24, fld r 63 48⟩
  let blocks := (List.range l.blocks.length).map fun b =>
    let old : BitVec 64 := l.blocks.getD b 0
    let x := decideWidth d (m.blockHist.getD b []) m.disagree m.compared (min (stWmin d) wt.c) wt.c 0 cal
      ⟨min (fld old 19 16) wt.c, fld old 23 20, fld old 47 32⟩
    blockRecord (m.blocks.getD b 0) x 0
  let promote := stNormEn d && stNormAct d % 2 == 1 && (jo || jg)
  ⟨l, m, [no, ng], [jo, jg], cands, wt, act, blocks, isOver, isOver || promote⟩

/-! ### The fallback ladder (R149 to R153) -/

/-- The rung a layer asks for when triggered: the first wider than its present format; none on the last (R150). -/
def requestedRung (f : Finding) : Option Nat :=
  match fld f.layer.layer 9 8 with
  | 0 => let w := max f.wt.c f.act.c; some (if w ≤ 4 then 1 else if w ≤ 6 then 2 else 3)
  | 3 => none
  | r => some (r + 1)

/-- HOLD after this boundary's decrease (R151). -/
def heldOn (f : Finding) : Nat := fld f.layer.layer 13 10 - 1

/-- A layer that keeps its present rung: it holds, or is triggered on the last rung (R151). -/
def keepsRung (f : Finding) : Bool :=
  fld f.layer.layer 9 8 != 0 && (if f.trigger then (requestedRung f).isNone else decide (0 < heldOn f))

/-- Rungs as granted so far: layers that hold one, reserve used, and each layer's rung and whether its request was met. -/
structure Grants where
  held  : Nat
  used  : Nat
  rungs : List (Nat × (Nat × Bool))
  deriving DecidableEq, Repr

/-- ΔT of a layer on rung r. -/
def rungNs (f : Finding) (r : Nat) : Nat := if r = 0 then 0 else f.layer.extra.getD (r - 1) 0

/-- A layer takes rung r (0: none). -/
def Grants.take (g : Grants) (f : Finding) (r : Nat) (met : Bool) : Grants :=
  ⟨g.held + (if r = 0 then 0 else 1), g.used + rungNs f r, mapSet g.rungs (stLayer f.layer.desc) (r, met)⟩

/-- A request for rung q: in full within the allowance, else the widest rung whose ΔT fits in the reserve, else what the layer has
(R153); with no allowance no rung is ever granted (R171). -/
def grantRequest (allow reserve : Nat) (g : Grants) (f : Finding) (q : Nat) : Grants :=
  let now := fld f.layer.layer 9 8
  if allow = 0 then g.take f now false
  else if g.held < allow then g.take f q true
  else
    let fits := (List.range (q + 1)).filter fun r => decide (now < r) && decide (g.used + rungNs f r ≤ reserve)
    match fits.getLast? with
    | some r => g.take f r (r == q)
    | none => g.take f now false

/-- Rungs for the next step: keepers first, then requests, each in increasing layer number (R153). -/
def grantRungs (s : State) (fs : List Finding) : Grants :=
  let g := (fs.filter keepsRung).foldl (fun g f => Grants.take g f (fld f.layer.layer 9 8) true) ⟨0, 0, []⟩
  (fs.filter fun f => f.trigger && !keepsRung f).foldl (fun g f =>
    match requestedRung f with
    | some q => grantRequest (fallbackCount s) (fallbackReserve s) g f q
    | none => g) g

/-- Layers whose request was not granted in full (R153). -/
def unmet (g : Grants) : List Nat := (g.rungs.filter fun e => !e.2.2).map (·.1)

/-! ### Items 7 to 9: histories, streaks, records (R36, R131, R132, R160 to R162, R168) -/

/-- A 16-bit fraction of a count (R132). -/
def fraction (a n : Nat) : Nat := if n = 0 then 0 else min (65536 * a / n) 65535

/-- HOLD for the next step, with the layer's rung now (R151). -/
def nextHold (f : Finding) (rung : Nat) : Nat :=
  let old := fld f.layer.layer 9 8
  if rung = 0 then 0
  else if rung ≠ old then 9
  else if f.trigger && (requestedRung f).isNone && heldOn f == 0 then 9
  else heldOn f

/-- The list for the next step: all candidates, the A largest where the layer overflows without a rung, the old list where a rung is
granted to it (R146, R147). -/
def nextList (f : Finding) (granted : Bool) : List Nat :=
  if !f.overflow then f.cands
  else if granted then (f.layer.outliers.map BitVec.toNat).filter (· != 0xFFFFFFFF)
  else largestCands f.m f.cands (stAllow f.layer.desc)

/-- The silent streak and its reported bit after the step; the flag says that the step was silent (R160). -/
def silentStep (f : Finding) : Nat × Nat × Bool :=
  let r := f.layer.layer
  let n := (f.m.squares.getD 1 (0, 0)).2
  if n = 0 then (fld r 79 64, fld r 80 80, false)
  else if 999 * n ≤ (f.m.zeros.getD 2 0 + f.m.flush.getD 2 0) * 1000 then (min (fld r 79 64 + 1) 65535, fld r 80 80, true)
  else (0, 0, false)

/-- The layer's record for the next step (R168). `cal` is the largest CAL_LEFT among its tensors, `sampled` the tiles this module
sampled, `sats` its merged saturations with those of scales. -/
def layerState (f : Finding) (rung : Nat) (capped : Bool) (list : List Nat) (silent : Nat × Nat) (cal sampled sats : Nat) :
    BitVec 2048 :=
  let m := f.m
  let n := fun (i : Nat) => if i = 2 then (m.squares.getD 1 (0, 0)).2 else (m.hists.getD i []).sum + m.zeros.getD i 0
  let hist := fun (i lo : Nat) => (List.range 32).map fun b => (16 * b + lo + 15, 16 * b + lo, fraction ((m.hists.getD i []).getD b 0) (n i))
  let r : BitVec 2048 := packRec 2048 ([(3, 0, f.wt.c), (7, 4, f.act.c), (9, 8, rung), (13, 10, nextHold f rung), (14, 14, bit capped),
    (15, 15, if cal = 0 then 0 else 1), (18, 16, cal), (23, 20, f.wt.cand), (27, 24, f.act.cand), (47, 32, f.wt.streak),
    (63, 48, f.act.streak), (79, 64, silent.1), (80, 80, silent.2), (239, 224, m.amax.getD 0 0), (255, 240, m.amax.getD 1 0),
    (271, 256, m.amax.getD 2 0), (287, 272, fraction (m.zeros.getD 0 0) (n 0)), (303, 288, fraction (m.zeros.getD 1 0) (n 1)),
    (319, 304, fraction (m.zeros.getD 2 0) (n 2)), (335, 320, fraction (m.flush.getD 1 0) (n 1)),
    (351, 336, fraction (m.flush.getD 2 0) (n 2)), (367, 352, min sats 65535), (383, 368, min f.cands.length 65535),
    (399, 384, list.length), (415, 400, fraction m.disagree m.compared), (431, 416, min sampled 65535)] ++
    hist 0 512 ++ hist 1 1024 ++ hist 2 1536)
  setNorm (setNorm r false (f.norms.getD 0 ⟨0, 0, 0, 0, 0⟩)) true (f.norms.getD 1 ⟨0, 0, 0, 0, 0⟩)

/-- A code joins an amax history as its newest entry (R35, R355). -/
def pushHistory (h : BitVec 384) (code : Nat) : BitVec 384 :=
  setFld (setFld h 319 64 (fld h 303 64 * 65536 + code)) 53 49 (min 16 (thCount h + 1))

/-- A history after the boundary: the amax entered, calibration counted down, the scale of R36 for format c unless the tensor is
pinned, still calibrates or has H = 0; the flag says that the scale saturated (R36, R37, R162, R163). -/
def nextHistory (h : BitVec 384) (code : Nat) (c : Nat) : BitVec 384 × Bool :=
  let left := thCal h - 1
  let h := setFld (pushHistory h code) 56 54 left
  let f := fmtOf c
  if !f.scaled || thPinned h || left ≠ 0 || thMax h = 0 then (h, false)
  else
    let (sc, sat) := scaleFor f (bf16Val (thMax h))
    (setFld h 47 32 sc, sat)

/-- The merged amax of a tensor: its layer's, its group's, or the module's own (R336). -/
def mergedAmax (s : State) (fs : List Finding) (h : Nat) : Nat :=
  let d := (tensorOf s h).elim 0 (·.desc)
  let own := amaxCode (tensorStat s h).amax
  match fs.find? fun f => stW f.layer.desc == h || stA f.layer.desc == h || stG f.layer.desc == h with
  | some f =>
    let x := f.layer.desc
    f.m.amax.getD (if stW x = h then 0 else if stA x = h then 1 else 2) 0
  | none =>
    let i := (unsteeredOf s (tdGroup d)).idxOf h
    if tdLocal d then own
    else match xchgResult s (tdGroup d) 6 0 with
      | some us => leAt (us.getD 0 []) (128 + 2 * i) 2
      | none => own

/-- Item 7: every history and scale, with the formats of the next step; the tensors whose scales saturated (R133). -/
def enterHistories (s : State) (fs : List Finding) (newFmt : Nat → Option Nat) : State × List Nat :=
  (historyTensors s).foldl (fun (acc : State × List Nat) e =>
    let (h, t) := e
    let c := (newFmt h).getD (tdFmt t.desc)
    let old := match mapFind s.assay.calib h with | some x => setFld t.hist 47 32 x | none => t.hist
    let (hist, sat) := nextHistory old (mergedAmax s fs h) c
    (setTensor acc.1 h { t with hist := hist }, if sat then acc.2 ++ [h] else acc.2)) (s, [])

/-- The layer as it stands for the next step, its record not yet written. -/
structure Settled where
  f       : Finding
  rung    : Nat
  capped  : Bool
  list    : List Nat
  silent  : Nat × Nat × Bool
  deriving DecidableEq, Repr

/-- Rung, list and streak of a finding (R147, R151, R160). -/
def settleLayer (g : Grants) (f : Finding) : Settled :=
  let old := fld f.layer.layer 9 8
  let rung := match mapFind g.rungs (stLayer f.layer.desc) with | some x => x.1 | none => 0
  let granted := rung != 0 && rung != old
  ⟨f, rung, f.overflow && !granted, nextList f granted, silentStep f⟩

/-- The format code of a settled layer's weights or activations in the next step. -/
def settledFmt (x : Settled) (weights : Bool) : Nat :=
  match rungFmt x.rung with
  | some c => c
  | none => widthFmt (if weights then x.f.wt.c else x.f.act.c)

/-- Trace records of what changed in a layer (R502). -/
def traceLayer (s : State) (l new : SteerLayer) : State :=
  let n := stLayer l.desc
  let one := fun (s : State) (k a b : Nat) => if a = b then s else trace s 5 k n a b
  let s := one s 0 (fld l.layer 3 0) (fld new.layer 3 0)
  let s := one s 0 (fld l.layer 7 4) (fld new.layer 7 4)
  let s := one s 1 (fld l.layer 9 8) (fld new.layer 9 8)
  if l.outliers = new.outliers then s else trace s 5 2 n (fld l.layer 399 384) (fld new.layer 399 384)

/-- Events of a layer: overflow, norm jumps, silence (R146, R158, R161). Where both norms jump at one boundary the one event carries the
output norm in ARG1 (DESIGN CHOICE, log 87). -/
def layerEvents (s : State) (x : Settled) : State :=
  let d := x.f.layer.desc
  let n := stLayer d
  let s := if x.f.overflow then raise s { code := 0x2001, src := 1, argS := n, a0 := x.f.cands.length } else s
  let bits := bit (x.f.jumps.getD 0 false) + 2 * bit (x.f.jumps.getD 1 false)
  let norm := (x.f.norms.getD (if x.f.jumps.getD 0 false then 0 else 1) ⟨0, 0, 0, 0, 0⟩).rms
  let s := if stNormEn d && bits != 0 && !(layerStat s n).tested.testBit 2 then raise s { code := 0x2003, src := 1, argS := n, a0 := bits, a1 := norm } else s
  if stSilentEn d && decide (stSilentRun d ≤ x.silent.1) && x.silent.2.1 == 0 then
    raise s { code := 0x2004, src := 1, argS := n, a0 := x.silent.1 }
  else s

/-- Channels of block b on a list. -/
def listedIn (list : List Nat) (b : Nat) : Nat := (list.filter fun c => c / 64 == b).length

/-- Items 8 and 9 for one layer: its counter, record, blocks and list, and its events (R161, R168 to R170). -/
def writeLayer (sats : List Nat) (s : State) (x : Settled) : State :=
  let l := x.f.layer
  let d := l.desc
  let grad := watchedGrad s d
  let calOf := fun (h : Nat) => match tensorOf s h with | some t => thCal t.hist | none => 0
  let cal := max (max (calOf (stW d)) (calOf (stA d))) (calOf grad)
  let extra := ([stW d, stA d, grad].filter fun h => sats.contains h).length
  let report := stSilentEn d && decide (stSilentRun d ≤ x.silent.1)
  let rep := if report then 1 else x.silent.2.1
  let r := layerState x.f x.rung x.capped x.list (x.silent.1, rep) cal (layerStat s (stLayer d)).sampled (x.f.m.sat + extra)
  let blocks := (List.range x.f.blocks.length).map fun b => setFld (x.f.blocks.getD b 0) 63 48 (min 65535 (listedIn x.list b))
  let (pw, pa) := nextPins s l
  let new := { l with layer := r, blocks := blocks, outliers := outlierArray d x.list, pinWt := pw, pinAct := pa }
  let s := if x.silent.2.2 then bump s (0x1000 + l.index) else s
  let s := { s with job := { s.job with steer := s.job.steer.map fun y => if stLayer y.desc = stLayer d then new else y } }
  layerEvents (traceLayer s l new) x

/-! ### Changes that apply at a boundary (R279, R300, R301, R401) -/

/-- The draw counter of a unit's user-class stream becomes 0 (R298, R300). -/
def clearUserDraws (s : State) (u : Nat) : State := { s with job := { s.job with draws := mapErase s.job.draws (4 * u + 3) } }

/-- The last change of each unit's override among the commands due, in increasing unit: the key, or none for a removal, and whether
more than one command named the unit (R300, R307). -/
def overrideChanges (cs : List BoundaryCmd) : List (Nat × (Option (BitVec 128) × Bool)) :=
  cs.foldl (fun (m : List (Nat × (Option (BitVec 128) × Bool))) c =>
    match c with
    | .overrideSet u k => mapSet m u (some k, (mapFind m u).isSome)
    | .overrideRemove u => mapSet m u (none, (mapFind m u).isSome)
    | _ => m) []

/-- The overrides with changes made. -/
def changedOverrides (ovr : List (Nat × BitVec 128)) (ch : List (Nat × (Option (BitVec 128) × Bool))) : List (Nat × BitVec 128) :=
  ch.foldl (fun m c => match c.2.1 with | some k => mapSet m c.1 k | none => mapErase m c.1) ovr

/-- The key in use for unit u's user-class stream equals another key of the table (R299). -/
def unitClashes (s : State) (ovr : List (Nat × BitVec 128)) (u : Nat) : Bool :=
  let derived := fun (v : Nat) => streamKey s.job.seed.toNat s.job.rank.toNat 3 v
  match mapFind ovr u with
  | some k => (ovr.any fun x => x.1 != u && x.2 == k) ||
      (let v := fld k 111 96; drawUnit v && k.toNat == derived v && (mapFind ovr v).isNone)
  | none => ovr.any fun x => x.2.toNat == derived u

/-- The changes that take effect: none of those that leave two equal keys in the boundary's final table (R301, R307). -/
def soundChanges (s : State) (fuel : Nat) (ch : List (Nat × (Option (BitVec 128) × Bool))) : List (Nat × (Option (BitVec 128) × Bool)) :=
  match fuel with
  | 0 => []
  | fuel + 1 =>
    let ovr := changedOverrides s.job.overrides ch
    if ch.any fun c => unitClashes s ovr c.1 then soundChanges s fuel (ch.filter fun c => !unitClashes s ovr c.1) else ch

/-- The overrides due at a boundary: what would make two keys equal does not take effect, one event names the first duplicate, and HOLD
follows; a stream's counter becomes 0, where an override and its removal came together only if its key changes (R300, R301, R307). -/
def applyOverrides (s : State) (cs : List BoundaryCmd) : State :=
  let ch := overrideChanges cs
  let good := soundChanges s (ch.length + 1) ch
  let old := s.job.overrides
  let new := changedOverrides old good
  let s := match (if good = ch then none else keyClash s (changedOverrides old ch)) with
    | some (a, b) => raise { s with job := { s.job with dueHold := 5 } } { code := 0x1007, src := 0, argS := 0, a0 := a, a1 := b }
    | none => s
  good.foldl (fun s c => if c.2.2 && mapFind old c.1 == mapFind new c.1 then s else clearUserDraws s c.1)
    { s with job := { s.job with overrides := new } }

/-- A cleared history puts a scaled tensor into calibration, unless its scale is pinned (R162). -/
def beginCalibration (s : State) (h : Nat) : State :=
  match tensorOf s h with
  | some t =>
    if (stepFmt s h).scaled && !thPinned t.hist then setTensor s h { t with hist := setFld t.hist 56 54 4 } else s
  | none => s

/-- One change takes effect (R401); pins and overrides have functions of their own. -/
def applyDue (s : State) (c : BoundaryCmd) : State :=
  match c with
  | .jobParam valid ge grow =>
    let u := s.job.update
    let u := if valid.testBit 0 then setFld u 7 0 ge.toNat else u
    { s with job := { s.job with update := if valid.testBit 1 then setFld u 79 48 grow.toNat else u } }
  | .tensorSet h action v =>
    let s := applyTensorSet s h.toNat action v.toNat
    if action = 5 then beginCalibration s h.toNat else s
  | .optset n v => applyOptset s n v
  | .pin _ _ _ => s
  | .overrideSet _ _ => s
  | .overrideRemove _ => s
  | .opSet o f => applyOp s o f
  | .powerCap w f => applyCap s w f

/-- Tensors whose calibration the commands due start (R164). -/
def calibrationsDue (s : State) (cs : List BoundaryCmd) : Nat :=
  ((cs.filterMap fun c => match c with | .tensorSet h 5 _ => some h.toNat | _ => none).eraseDups.filter fun h =>
    match tensorOf s h with | some t => (stepFmt s h).scaled && !thPinned t.hist && thCount t.hist == 0 | none => false).length

/-- GOOD_RUN and GEXP after a step whose vote was true (R278). -/
def growUpdate (u : BitVec 128) : BitVec 128 :=
  let run := juGoodRun u + 1
  if juGrowInt u ≠ 0 ∧ juGrowInt u ≤ run then
    setFld (setFld u 47 16 0) 7 0 (unsignedOf 8 (min 32 (juGexp u + 1)))
  else setFld u 47 16 (min run 0xFFFFFFFF)

/-! ### The boundary -/

/-- The changes due at the boundary take effect, after γ's growth and with the tensors whose calibration they start (R164, R278,
R401). -/
def applyChanges (s : State) : State :=
  let due := s.job.due.take s.assay.dueCount
  let s := if s.step.vote = some true then { s with job := { s.job with update := growUpdate s.job.update } } else s
  let s := applyOverrides (due.foldl applyDue s) due
  let n := calibrationsDue s due
  if n = 0 then s else raise s { code := 0x2005, src := 1, a0 := n }

/-- Items 3 to 9 of R133 on the merged records; the changes due apply before the records are written, so that a calibration they start
stands in them. -/
def assayerWork (s : State) : State :=
  let fs := s.job.steer.map (findLayer s)
  let g := grantRungs s fs
  let xs := fs.map (settleLayer g)
  let newFmt := fun (h : Nat) =>
    match (if h = 0 then none else xs.find? fun x => stW x.f.layer.desc == h || stA x.f.layer.desc == h) with
    | some x => some (settledFmt x (stW x.f.layer.desc == h))
    | none => none
  let (s, sats) := enterHistories s fs newFmt
  let s := xs.foldl (writeLayer sats) (applyChanges s)
  match unmet g with
  | [] => s
  | l :: ls => raise s { code := 0x2002, src := 1, argS := l, a0 := ls.length + 1 }

/-- The boundary is complete: the Purse, and the barrier frame; the seal comes next (R133, R337, R343, R456). -/
def completeBoundary (s : State) : State :=
  let s := assayerWork s
  let s := { s with job := { s.job with due := s.job.due.drop s.assay.dueCount } }
  let s := { s with fab := { s.fab with gather := [], merges := [] }, assay := AssaySt.none }
  let s := settlePoint (purseLimit s) true
  let s := { s with step := { s.step with phase := 3, barrier := 1 }, sealer := { s.sealer with phase := 0 } }
  sendBarrier s s.step.number.toNat (barrierTag false false false false s.job.holding 0)

/-- Members disagree: an event for each layer and group, and the boundary does not complete (R167, R277). -/
def skewedBoundary (s : State) (ds : List (Nat × Nat × Bool)) : State :=
  let s := ds.foldl (fun s x =>
    raise s { code := 0x1003, src := 1, argS := x.1, a0 := x.2.1, a1 := s.ident.jobStep.toNat % 2 ^ 32, a2 := bit x.2.2 }) s
  enterHold (spendDue { s with fab := { s.fab with merges := [] } }) 4

/-- The merges have begun at this boundary. -/
def mergesBegun (s : State) : Bool := s.fab.merges.any fun x => decide (4 ≤ x.phase)

/-- The boundary goes on with what has arrived, and completes once every merge is complete (R133, R336). -/
def advanceBoundary (s : State) : State :=
  let s := advanceMerges s
  if !mergesDone s then s
  else match disagreements s with
    | [] => completeBoundary s
    | ds => skewedBoundary s ds

/-- Whether the boundary waited for sampled tiles beyond what admission counted: free where the module sampled a tile, since the spec
gives the tiles' time no bound below (R154, R419, log 88). -/
def noteSampleWait (s : State) : State :=
  if s.job.steer.any fun l => (layerStat s (stLayer l.desc)).sampled != 0 then
    let (s, w) := freeBelow s 2
    { s with step := { s.step with sampleWait := w == 1 } }
  else s

/-- The boundary of the step, from the end of its mill phase (R133, R286). -/
def boundaryWork (s : State) : State :=
  if s.step.abandoned then dropStep s
  else if s.step.invalid then invalidStep s false
  else if mergesBegun s then advanceBoundary s
  else
    let s := noteSampleWait { s with assay := { s.assay with dueCount := s.job.due.length } }
    let s := trace s 2 2 s.step.plan (genOf s s.step.number.toNat).toNat 0
    advanceBoundary (beginMerges s)

/-- No operation of the step is under way. -/
def opsQuiet (s : State) : Bool := s.step.ops.all fun o => o.2 == 2

/-- BOUNDARY_WORK (R133): once the mill phase has ended and every operation has completed; or the end of a step with a stale gather,
which is replayed (R339). -/
def execBoundaryWork (s : State) : Host.Outcome State Fault Refusal :=
  .next (
    if !s.step.active || stopped s then s
    else if !s.fab.stale.isEmpty && s.step.phase != 1 && s.step.phase != 3 && opsQuiet s then invalidStep s false
    else if s.step.phase = 2 && (allOpsDone s || s.step.abandoned) then boundaryWork s
    else s)

end Sys2Proof.Machine
end

