-- ==== Sys2Proof/Machine/Collectives.lean ====
section
/-! DEFINITION. The collective engine and stage queues: what an operation sends, reductions, gathers, sums of squares, the vote,
and the rows of COLL frames, votes, tags, stage queues and collectives (R326 to R342). -/

namespace Sys2Proof.Machine

/-! ### Elements and lines (R32, R326, R331) -/

/-- An element on its way: its code, and how its words read: 0 good, 1 bad, 2 unmapped. -/
abbrev InElem := Nat × Nat

/-- Elements in a 64-byte line (R32). -/
def perLine (f : Fmt) : Nat := if 8 ≤ f.width then 512 / f.width else 16 * perWord f.width

/-- Elements packed into lines from the start of a message; a line with a bad or unmapped element is marked. -/
def packLines (f : Fmt) (es : List InElem) : List (Line × Bool) :=
  (List.range (ceilDiv es.length (perLine f))).map fun i =>
    let part := (es.drop (i * perLine f)).take (perLine f)
    (BitVec.ofNat 512 ((part.zipIdx.map fun x => x.1.1 * 2 ^ (elemBitAddr 0 f (x.2 : Nat)).toNat).sum), part.any fun x => x.2 != 0)

/-- Element k of a message, bad where its line is marked. -/
def msgElem (f : Fmt) (m : RxMsg) (k : Nat) : InElem :=
  let i := k / perLine f
  ((mapGet m.lines i 0).toNat / 2 ^ (elemBitAddr 0 f ((k % perLine f : Nat) : Int)).toNat % 2 ^ f.width, bit (m.marks.contains i))

/-- The first n elements of a message. -/
def msgElems (f : Fmt) (m : RxMsg) (n : Nat) : List InElem := (List.range n).map (msgElem f m)

/-- Bit address of element k of a region. -/
def elemBit (f : Fmt) (base k : Nat) : Nat := (elemBitAddr base f (k : Int)).toNat

/-- Faults of the engine at elements given by index and address, in order; those of one range share a record (R227, R331). -/
def collFaults (s : State) (kind : Nat) (ks : List (Nat × Nat)) : State :=
  ks.zipIdx.foldl (fun s k =>
    logFault s { kind := kind, cls := 3, slot := 0, carter := 0, op := 0xFFFD, first := k.1.1, last := k.1.1, addr := k.1.2, src := 5 }
      (k.2 != 0)) s

/-- n elements of a region from element `first`. The host region is out of the engine's reach (R435). -/
def readRegion (s : State) (f : Fmt) (base first n : Nat) : State × List InElem :=
  let lo := elemBit f base first / 8
  if n = 0 then (s, [])
  else if inHost lo then (s, List.replicate n (0, 2))
  else
    let len := (elemBit f base (first + n - 1) + f.width + 7) / 8 - lo
    let (s, bs) := loadSpan (countLines s lo len) lo len
    let v := natOfBytes (bs.map (·.1))
    (s, (List.range n).map fun k =>
      let b := elemBit f base (first + k) - 8 * lo
      (v / 2 ^ b % 2 ^ f.width, (((bs.drop (b / 8)).take ((b + f.width + 7) / 8 - b / 8)).map (·.2)).foldl max 0))

/-- n elements of a collective's input; those in no mapped page are faults of kind 2 (R331). -/
def readInput (s : State) (d : BitVec 512) (first n : Nat) : State × List InElem :=
  let f := fmtOf (cFmt d)
  let (s, es) := readRegion s f (cSrc d) first n
  let lost := (es.zipIdx.filter fun e => e.1.2 == 2).map fun e => (first + e.2, elemBit f (cSrc d) (first + e.2) / 8)
  (collFaults s 2 lost, es)

/-- Codes written to a region from element `first`; those that meet no mapped page are faults of kind 3 (R331). -/
def writeOutput (s : State) (f : Fmt) (base first : Nat) (es : List (Nat × Bool)) : State :=
  let addr := fun (k : Nat) => (first + k, elemBit f base (first + k) / 8)
  let lo := elemBit f base first / 8
  if es.isEmpty then s
  else if inHost lo then collFaults s 3 ((List.range es.length).map addr)
  else
    let len := (elemBit f base (first + es.length - 1) + f.width + 7) / 8 - lo
    let (s, missing) := storeBits (countLines s lo len) (es.zipIdx.flatMap fun e =>
      let b := elemBit f base (first + e.2)
      let word := if 8 ≤ f.width then b else 8 * (base + 4 * ((first + e.2) / perWord f.width))
      codePieces b f.width word e.1.1 e.1.2)
    collFaults s 3 (((List.range es.length).filter fun k => missing.contains (elemBit f base (first + k) / 128)).map addr)

/-- Some good element is not finite. -/
def nonFinite (f : Fmt) (es : List InElem) : Bool := es.any fun e => e.2 == 0 && (decode f true e.1).cls != .finite

/-- A cause of a false contribution (R278): 1 a non-finite element sent, 2 one received. -/
def addCause (s : State) (mask : Nat) : State := { s with step := { s.step with causes := s.step.causes ||| mask } }

/-! ### Collectives under way -/

def setColl (s : State) (op : Nat) (x : CollSt) : State := { s with eng := { s.eng with colls := mapSet s.eng.colls op x } }

/-- The stage of a collective, 0 where it has not started. -/
def collStage (s : State) (op : Nat) : Nat := match mapFind s.eng.colls op with | some x => x.stage | none => 0

def setStage (s : State) (op stage : Nat) : State :=
  match mapFind s.eng.colls op with
  | some x => setColl s op { x with stage := stage }
  | none => s

/-- Elements sent to a member in a phase of an operation, with the lines counted. -/
def sendElems (s : State) (d : BitVec 512) (r : GroupRec) (i phase op tag : Nat) (es : List InElem) : State :=
  let lines := packLines (fmtOf (cFmt d)) es
  let s := match mapFind s.eng.colls op with
    | some x => setColl s op { x with lines := x.lines + lines.length }
    | none => s
  sendMessage s (cGroup d) r (memberAddr r i) phase op tag lines

/-- Member indices other than SELF. -/
def others (r : GroupRec) : List Nat := (List.range (gNmemb r)).filter fun i => i != gSelf r

/-- The scale that decodes the module's own input (R329). -/
def sourceScale (s : State) (d : BitVec 512) : Nat := if (fmtOf (cFmt d)).scaled then stepScale s (cSrcTensor d) else 0x3F80

/-- The scale of the output (R329). -/
def outputScale (s : State) (d : BitVec 512) : Dy := if (fmtOf (cFmt d)).scaled then bf16Val (stepScale s (cTensor d)) else dyNat 1

/-! ### What a collective sends at its start (R326, R329, R337, R338) -/

/-- A reduction: chunk i to its owner. -/
def startReduction (s : State) (d : BitVec 512) (r : GroupRec) (op : Nat) : State :=
  (others r).foldl (fun s i =>
    let (s, es) := readInput s d (i * cCount d) (cCount d)
    let s := if nonFinite (fmtOf (cFmt d)) es then addCause s 1 else s
    sendElems s d r i 0 op (sourceScale s d) es) s

/-- The module's own input placed in its output. -/
def placeOwn (s : State) (d : BitVec 512) (first : Nat) (es : List InElem) : State :=
  writeOutput s (fmtOf (cFmt d)) (cDst d) first (es.map fun e => (e.1, e.2 != 0))

/-- The module's input to every other member, and to its own output from element `first`. -/
def sendToAll (s : State) (d : BitVec 512) (r : GroupRec) (op tag first : Nat) : State :=
  let (s, es) := readInput s d 0 (cCount d)
  let s := (others r).foldl (fun s i => sendElems s d r i 0 op tag es) s
  placeOwn s d first es

/-- Tags alone to every other member (R338). -/
def sendTags (s : State) (d : BitVec 512) (r : GroupRec) (op : Nat) : State :=
  (others r).foldl (fun s i =>
    sendFrame s { type := 2, dest := memberAddr r i, group := cGroup d, gen := (gGen r).toNat, tag := ownTag s d, op := phaseOp 0 op }) s

/-- Chunk i to member i, the own chunk to the output. -/
def startAllToAll (s : State) (d : BitVec 512) (r : GroupRec) (op : Nat) : State :=
  (List.range (gNmemb r)).foldl (fun s i =>
    let (s, es) := readInput s d (i * cCount d) (cCount d)
    if i = gSelf r then placeOwn s d (i * cCount d) es else sendElems s d r i 0 op 0 es) s

/-- What a collective among a group sends at its start. -/
def startSends (s : State) (d : BitVec 512) (r : GroupRec) (op : Nat) : State :=
  match cColl d with
  | 0 => startReduction s d r op
  | 1 => if cTagonly d then sendTags s d r op else sendToAll s d r op (ownTag s d) (gSelf r * cCount d)
  | 2 => startReduction s d r op
  | 3 => startAllToAll s d r op
  | _ => if gSelf r = cRoot d then sendToAll s d r op 0 0 else s

/-! ### Reduction (R329 to R332) -/

/-- An element's value at a member's scale (R329). -/
def scaledNum (f : Fmt) (scale : Dy) (code : Nat) : Num :=
  let x := decode f true code
  { x with v := dyMul x.v scale }

/-- The sum of element k of the contributions; none where one is poisoned (R330, R331). -/
def elemSum (f : Fmt) (inputs : List (List InElem × Dy)) (k : Nat) : Option Num :=
  let xs := inputs.map fun x => (x.1.getD k (0, 0), x.2)
  if xs.any fun x => x.1.2 != 0 then none
  else some (xs.foldl (fun (a : Num) x => numAdd a (scaledNum f x.2 x.1.1)) (numOf dyZero))

/-- The group whose members' amax joins a calibrating tensor's, where it has members besides the module (R163). -/
def calibrationGroup (s : State) (h : Nat) : Option GroupRec :=
  let g := match s.job.steer.find? fun l => stW l.desc == h || stA l.desc == h || stG l.desc == h with
    | some l => if stGroup l.desc = 0xFFFF then none else some (stGroup l.desc)
    | none => match tensorOf s h with | some t => if tdLocal t.desc then none else some (tdGroup t.desc) | none => none
  match g.bind (groupOf s) with
  | some r => if 1 < gNmemb r then some r else none
  | none => none

/-- The scale of a calibrating tensor, set once in the step: that of R36 for the largest amax of the module's own first pass, an amax
code, and of the other members', which is a free value of the step and tensor: the spec gives their merge no frames (R163; log 79). -/
def calibrateTo (s : State) (h own : Nat) : State :=
  if !inCalibration s h || (mapFind s.assay.calib h).isSome then s
  else
    let other := match calibrationGroup s h with | some _ => Config.memberAmax s.step.number.toNat h % 0x7F80 | none => 0
    let code := max own other
    let sc := if code = 0 then stepScale s h else (scaleFor (stepFmt s h) (bf16Val code)).1
    { s with assay := { s.assay with calib := mapSet s.assay.calib h sc } }

/-- One output element from the contributions of every member, each with its scale: the draw where PURPOSE is gradient, then the
class, the exact sum and one rounding. A poisoned one has a free code (R330, R331). -/
def reduceElem (s : State) (d : BitVec 512) (inputs : List (List InElem × Dy)) (k : Nat) : State × (Nat × Bool) :=
  let f := fmtOf (cFmt d)
  let (s, u) := if cPurpose d = 2 then draw s (0xA100 + k % 256) 0 else (s, 0)
  match elemSum f inputs k with
  | none =>
    let (s, code) := freeBelow s (2 ^ f.width)
    (s, (code, true))
  | some sum =>
    let c := convert f (outputScale s d) rFast (purposeRule f (cPurpose d) u) sum
    let s := if sum.cls == .finite then gather1 s (cTensor d) sum.v none none c.flush else s
    let s := if c.flush then flushInput s (cTensor d) 1 else s
    let s := if c.sat then scaleSat s (cTensor d) else s
    (s, (c.code, false))

/-- Earlier gradient reductions of the step have been reduced, so the draw units serve this one next (R330). -/
def drawsReady (s : State) (op : Nat) : Bool :=
  (List.range op).all fun i =>
    let e := stepOp s i
    let d := eColl e
    eKind e != 2 || cPurpose d != 2 || mapGet s.step.ops i 0 == 2 || decide (2 ≤ collStage s i)

/-- Every contribution to the module's chunk has arrived. -/
def contributionsHere (s : State) (d : BitVec 512) (r : GroupRec) (op : Nat) : Bool :=
  cCount d == 0 || (otherMembers r).all fun a => (wholeMsg s a (cGroup d) 0 op).isSome

/-- Inputs that Fast mode flushes, among the good elements (R41). -/
def flushedIn (f : Fmt) (es : List InElem) : Nat := (es.filter fun e => e.2 == 0 && readFlushes f e.1).length

/-- The module's chunk reduced: its elements, with what reading and reducing them records. -/
def reduceChunk (s : State) (d : BitVec 512) (r : GroupRec) (op : Nat) : State × List (Nat × Bool) :=
  let f := fmtOf (cFmt d)
  let n := cCount d
  let (s, own) := readInput s d (gSelf r * n) n
  let s := if nonFinite f own then addCause s 1 else s
  let got := ((otherMembers r).filterMap fun a => wholeMsg s a (cGroup d) 0 op).map fun m =>
    (msgElems f m n, bf16Val (m.tags.headD 0 % 65536))
  let s := if got.any fun x => nonFinite f x.1 then addCause s 2 else s
  let inputs := (own, bf16Val (sourceScale s d)) :: got
  let s := flushInput s (cSrcTensor d) ((inputs.map fun x => flushedIn f x.1).sum)
  -- a calibrating output: the first pass over the sums, before any is converted (R163)
  let big := (List.range n).foldl (fun (m : Dy) k =>
    match elemSum f inputs k with | some x => if x.cls == .finite then dyMax m (dyAbs x.v) else m | none => m) dyZero
  let s := calibrateTo s (cTensor d) (amaxCode big)
  (List.range n).foldl (fun (acc : State × List (Nat × Bool)) k =>
    let (s, e) := reduceElem acc.1 d inputs k
    (s, acc.2 ++ [e])) (takeMsgs s (cGroup d) 0 op, [])

/-! ### Sums of squares (R333, R334) -/

/-- The square of a written code at the output's scale; nothing where it is not finite or poisoned. -/
def elemSquare (f : Fmt) (scale : Dy) (e : Nat × Bool) : Dy :=
  let x := scaledNum f scale e.1
  if e.2 || x.cls != .finite then dyZero else dyMul x.v x.v

/-- Statistics written as binary32 at an address. -/
def writeStats (s : State) (a : Nat) (xs : List Dy) : State := writeOutput s .f32 a 0 (xs.map fun x => (f32OfDy x, false))

/-- Exact sum. -/
def sumDy (xs : List Dy) : Dy := xs.foldl dyAdd dyZero

/-- Row sums of the chunk's squares, written; with SQ = 1 the column partials set out to be all-reduced. -/
def squareSums (s : State) (d : BitVec 512) (r : GroupRec) (op : Nat) (out : List (Nat × Bool)) : State :=
  let nc := cNcols d
  let rows := cCount d / nc
  let sq := out.map (elemSquare (fmtOf (cFmt d)) (outputScale s d))
  let rsum := (List.range rows).map fun i => sumDy ((sq.drop (i * nc)).take nc)
  let (_, rs, _, _) := statParts nc rows
  let s := writeStats s (cStat d + (if cSq d = 2 then 64 else rs)) rsum
  if cSq d = 2 then setStage s op 4
  else
    let (s, units) := (List.range nc).foldl (fun (acc : State × List (List Byte)) j =>
      let (s, q) := squareUnits acc.1 (sumDy ((List.range rows).map fun i => sq.getD (i * nc + j) dyZero))
      (s, acc.2 ++ [bytesOfNat 80 q])) (s, [])
    startXchg (setStage s op 3) r (cGroup d) 2 op units

/-- Column sums and Q, once the partials are reduced. -/
def columnSums (s : State) (d : BitVec 512) (units : List (List Byte)) : State :=
  let cs := units.map natOfBytes
  let (c, _, _, _) := statParts (cNcols d) (cCount d / cNcols d)
  let s := writeStats s (cStat d) [⟨cs.sum, -306⟩]
  writeStats s (cStat d + c) (cs.map fun (q : Nat) => ⟨(q : Int), -306⟩)

/-! ### Progress -/

/-- The owner's reduction, where everything it needs is here: outputs written, poisoned ones recorded, then the statistics, or in
an all-reduce the reduced chunk sent on. -/
def reduceNow (s : State) (d : BitVec 512) (r : GroupRec) (op : Nat) : State :=
  let f := fmtOf (cFmt d)
  let (s, out) := reduceChunk s d r op
  let first := if cColl d = 2 then gSelf r * cCount d else 0
  let bad := (out.zipIdx.filter fun e => e.1.2).map fun e => (e.2, elemBit f (cDst d) (first + e.2) / 8)
  let s := writeOutput (collFaults s 1 bad) f (cDst d) first out
  if cColl d = 2 then
    (others r).foldl (fun s i => sendElems s d r i 1 op 0 (out.map fun e => (e.1, bit e.2))) (setStage s op 2)
  else if cSq d = 0 then setStage s op 4
  else squareSums s d r op out

/-- Members whose data a collective places. -/
def sources (d : BitVec 512) (r : GroupRec) : List Nat :=
  if cCount d = 0 then [] else if cColl d = 4 then (if gSelf r = cRoot d then [] else [cRoot d]) else others r

/-- The whole message of member i placed at its chunk (R321, R326, R331). -/
def placeFrom (d : BitVec 512) (r : GroupRec) (op phase : Nat) (s : State) (i : Nat) : State :=
  match wholeMsg s (memberAddr r i) (cGroup d) phase op with
  | some m =>
    if m.used then s
    else
      let f := fmtOf (cFmt d)
      let es := msgElems f m (cCount d)
      let s := placeOwn (putMsg s { m with used := true }) d (if cColl d = 4 then 0 else i * cCount d) es
      if phase = 1 && nonFinite f es then addCause s 2 else s
  | none => s

/-- Everything that members send has been placed. -/
def allPlaced (s : State) (d : BitVec 512) (r : GroupRec) (op phase : Nat) : Bool :=
  (sources d r).all fun i =>
    match wholeMsg s (memberAddr r i) (cGroup d) phase op with
    | some m => m.used
    | none => false

/-- Stage 1: a reduction reduces; the others place what has arrived; a tag-only gather awaits every tag. -/
def firstStage (s : State) (d : BitVec 512) (r : GroupRec) (op : Nat) : State :=
  if cColl d = 0 ∨ cColl d = 2 then
    if contributionsHere s d r op && (cPurpose d != 2 || drawsReady s op) then reduceNow s d r op else s
  else if cTagonly d then
    if (otherMembers r).all fun a => (findMsg s a (cGroup d) 0 op).isSome then
      setStage (takeMsgs s (cGroup d) 0 op) op 4 else s
  else
    let s := (sources d r).foldl (placeFrom d r op 0) s
    if allPlaced s d r op 0 then setStage s op 4 else s

/-- Stage 2: the reduced chunks of an all-reduce are placed. -/
def gatherStage (s : State) (d : BitVec 512) (r : GroupRec) (op : Nat) : State :=
  let s := (sources d r).foldl (placeFrom d r op 1) s
  if allPlaced s d r op 1 then setStage s op 4 else s

/-- Stage 3: the column partials. -/
def columnStage (s : State) (d : BitVec 512) (r : GroupRec) (op : Nat) : State :=
  match findXchg s (cGroup d) 2 op with
  | some x =>
    let s := advanceXchg (fun _ => sumPartial) s r x
    (match xchgResult s (cGroup d) 2 op with
     | some units => setStage (columnSums s d units) op 4
     | none => s)
  | none => s

/-- A collective goes as far as what has arrived allows. -/
def advanceColl (s : State) (op : Nat) : State :=
  let d := eColl (stepOp s op)
  match (if cColl d = 5 then none else groupOf s (cGroup d)) with
  | none => s
  | some r =>
    let s := if collStage s op = 1 then firstStage s d r op else s
    let s := if collStage s op = 2 then gatherStage s d r op else s
    if collStage s op = 3 then columnStage s d r op else s

/-- Every collective under way goes on, in operation order. -/
def advanceColls (s : State) : State := (s.eng.colls.map (·.1)).foldl advanceColl s

/-! ### Stage queues (R341, R342) -/

/-- The producer of a queue holds a credit. -/
def sqCredit (q : StageQueue) : Bool :=
  sqValid q.record && !sqConsumes q.record && decide ((BitVec.ofNat 32 q.begun - q.received).toNat < sqSlots q.record)

/-- A queue replaced. -/
def setQueue (s : State) (n : Nat) (q : StageQueue) : State := { s with fab := { s.fab with queues := mapSet s.fab.queues n q } }

/-- A send takes its credit and goes out, where its queue has one. -/
def trySend (s : State) (op : Nat) : State :=
  let d := eColl (stepOp s op)
  match mapFind s.fab.queues (cQueue d) with
  | some q =>
    if !sqCredit q then s
    else
      let (s, es) := readInput (setQueue s (cQueue d) { q with begun := q.begun + 1 }) d 0 (cCount d)
      let lines := packLines (fmtOf (cFmt d)) es
      let s := (frameParts lines).foldl (fun s p =>
        sendFrame s { type := 0, last := p.2.1, dest := sqPeer q.record, tag := cQueue d + 64 * (q.begun % 2 ^ 26),
                      op := phaseOp 0 op, offset := p.1, pmap := p.2.2.1, lines := p.2.2.2 }) s
      setColl s op ⟨4, lines.length⟩
  | none => s

/-- The send of a consumer's queue that a frame's n mod 2^26 names, if its slots allow it. -/
def sqSend (q : StageQueue) (n : Nat) : Option Nat :=
  ((List.range (sqSlots q.record)).map (q.released + ·)).find? fun k => k % 2 ^ 26 == n

/-- A line of a send written into its slot, the module's fault where no mapped page is there (R331, R342). -/
def slotLine (s : State) (q : StageQueue) (n o : Nat) (line : Line) (mark : Bool) : State :=
  let a := sqBase q.record + 64 * (n % sqSlots q.record * sqLines q.record + o)
  let (s, lost) := if inHost a then (s, true) else storeLine (countLines s a 64) a line mark (writeTag s)
  if lost then collFaults s 3 [(o, a)] else s

/-- A data frame of a stage queue at its consumer (R342). -/
def slotArrives (s : State) (f : Frame) : State :=
  let num := fTag f % 64
  match (if jobExists s then mapFind s.fab.queues num else none) with
  | none => bump s 0xECD
  | some q =>
    if !(sqValid q.record && sqConsumes q.record && sqPeer q.record == fSrc f) || decide (sqLines q.record < fOffset f + fLen f) then
      bump s 0xECD
    else
      match sqSend q (fTag f / 64) with
      | none => bump s 0xECD
      | some n =>
        let old := match mapFind q.filling n with | some x => x | none => ([], none)
        let offs := (List.range (fLen f)).map (fOffset f + ·)
        let fresh := offs.filter fun o => !old.1.contains o
        let s := fresh.foldl (fun s o =>
          slotLine s q n o (f.lines.getD (o - fOffset f) 0) ((fPmap f).testBit (o - fOffset f))) s
        let s := if fresh.length = offs.length then s else bump s 0xEC3
        let total := if fLast f then some (fOffset f + fLen f) else old.2
        setQueue s num { q with filling := mapSet q.filling n (old.1 ++ fresh, total) }

/-- A credit return at the producer (R342). -/
def creditArrives (s : State) (f : Frame) : State :=
  let num := fTag f % 64
  match mapFind s.fab.queues num with
  | none => s
  | some q =>
    let count := BitVec.ofNat 32 (fOffset f)
    if sqValid q.record && !sqConsumes q.record && sqPeer q.record == fSrc f && laterGen count q.received then
      setQueue s num { q with received := count }
    else s

/-! ### Frames of a group -/

/-- The group of a frame that its receiver takes: VALID, of the sender's GEN, with the sender a member. A frame of another GEN is
counted as stale (R325). -/
def groupFrame (s : State) (f : Frame) (act : State → State) : State :=
  match groupOf s (fGroup f) with
  | none => s
  | some r =>
    if (gGen r).toNat ≠ fGen f then bump s 0xEC2
    else if !jobExists s || (memberIndex r (fSrc f)).isNone then s
    else act s

/-- A frame joins its message; lines that repeat are counted (R321, R537). -/
def joinMessage (s : State) (f : Frame) : State :=
  let m := (findMsg s (fSrc f) (fGroup f) (fPhase f) (fOpNum f)).getD (RxMsg.empty (fSrc f) (fGroup f) (fPhase f) (fOpNum f))
  let (m, again) := addFrame m f
  let s := putMsg s m
  if again then bump s 0xEC3 else s

/-- What a message may bring: collectives and gathers go on, or the boundary's merges. -/
def afterMessage (s : State) (phase : Nat) : State :=
  if 4 ≤ phase then
    if s.step.active && s.step.phase == 2 && mergesBegun s then advanceBoundary s else s
  else if enginesRun s then advanceColls (checkGathers false s)
  else s

/-- A vote of a member for the step in progress (R335). -/
def voteArrives (s : State) (f : Frame) : State :=
  if fOffset f ≠ s.ident.jobStep.toNat % 2 ^ 32 then bump s 0xEC5
  else if (mapFind s.fab.votes (fSrc f)).isSome then s
  else tryMillPhase { s with fab := { s.fab with votes := mapSet s.fab.votes (fSrc f) ((fTag f).testBit 0) } }

/-- Entry op of the step's plan is a collective with that property. -/
def collIs (s : State) (op : Nat) (p : BitVec 512 → Bool) : Bool := eKind (stepOp s op) == 2 && p (eColl (stepOp s op))

/-! ### The rows -/

/-- COLL_FRAME (R321, R325, R329, R537). -/
def execCollFrame (port : Fin 24) (f : Frame) (s : State) : Host.Outcome State Fault Refusal :=
  .next (receive s port.val f (fun f => fType f == 1) fun s f =>
    groupFrame s f fun s => afterMessage (joinMessage s f) (fPhase f))

/-- STAGE_QUEUE_DATA_FRAME (R342). -/
def execStageQueueDataFrame (port : Fin 24) (f : Frame) (s : State) : Host.Outcome State Fault Refusal :=
  .next (receive s port.val f (fun f => fType f == 0) slotArrives)

/-- CREDIT_RETURN (R342). -/
def execCreditReturn (port : Fin 24) (f : Frame) (s : State) : Host.Outcome State Fault Refusal :=
  .next (receive s port.val f (fun f => fType f == 2 && fOp f == 0xFFFFFFFE) creditArrives)

/-- VOTE_FRAME (R335): a CTRL frame of phase 0, but for a tag-only gather's. -/
def execVoteFrame (port : Fin 24) (f : Frame) (s : State) : Host.Outcome State Fault Refusal :=
  .next (receive s port.val f (fun f => fType f == 2 && fPhase f == 0 && !collIs s (fOpNum f) cTagonly) fun s f =>
    groupFrame s f fun s => voteArrives s f)

/-- TAG_ONLY_FRAME (R338): a CTRL frame of phase 0, but for the vote's. -/
def execTagOnlyFrame (port : Fin 24) (f : Frame) (s : State) : Host.Outcome State Fault Refusal :=
  .next (receive s port.val f (fun f => fType f == 2 && fPhase f == 0 && !collIs s (fOpNum f) cVote) fun s f =>
    groupFrame s f fun s => afterMessage (joinMessage s f) 0)

/-- ARG0 of a collective's trace records (R502). -/
def collArg (d : BitVec 512) : Nat := cColl d * 256 + cGroup d

/-- COLLECTIVE_START (R326): an operation that has started sends what it sends, once. -/
def execCollectiveStart (op : Nat) (s : State) : Host.Outcome State Fault Refusal :=
  .next (
    let e := stepOp s op
    let d := eColl e
    if !enginesRun s || eKind e != 2 || mapGet s.step.ops op 0 != 1 || collStage s op != 0 then s
    else
      let s := setColl (trace s 4 0 op (collArg d) 0) op ⟨1, 0⟩
      if cColl d = 5 then trySend s op
      else match groupOf s (cGroup d) with
        | some r => advanceColls (checkGathers false (startSends s d r op))
        | none => s)

/-- The module's vote goes to every member (R335). -/
def sendVote (s : State) (d : BitVec 512) (op : Nat) : State :=
  let v := s.step.causes == 0
  let s := { s with fab := { s.fab with votes := mapSet s.fab.votes (ownAddr s) v } }
  match groupOf s (cGroup d) with
  | some r => (others r).foldl (fun s i =>
      sendFrame s { type := 2, dest := memberAddr r i, group := cGroup d, gen := (gGen r).toNat, tag := bit v, op := phaseOp 0 op,
                    offset := s.ident.jobStep.toNat % 2 ^ 32 }) s
  | none => s

/-- COLLECTIVE_COMPLETE (R326, R335): every output and statistic written, the vote is sent where the operation carries it. -/
def execCollectiveComplete (op : Nat) (s : State) : Host.Outcome State Fault Refusal :=
  .next (
    let s := if enginesRun s then advanceColls s else s
    match mapFind s.eng.colls op with
    | some x =>
      if !enginesRun s || x.stage != 4 then s
      else
        let d := eColl (stepOp s op)
        let s := trace s 4 1 op (collArg d) (x.lines * 64 / 1024)
        let eng := { s.eng with colls := mapErase s.eng.colls op }
        let fab := { s.fab with merges := s.fab.merges.filter fun m => !(m.phase == 2 && m.op == op) }
        let s := { s with eng := eng, fab := fab }
        let s := if cVote d then sendVote s d op else s
        completeOp s op
    | none => s)

/-- STAGE_QUEUE_SEND (R341): a send that waited for a credit. -/
def execStageQueueSend (op : Nat) (s : State) : Host.Outcome State Fault Refusal :=
  .next (if enginesRun s && collStage s op == 1 && collIs s op (fun d => cColl d == 5) then trySend s op else s)

end Sys2Proof.Machine
end

