-- ==== Sys2Proof/Machine/HostLink.lean ====
section
/-! DEFINITION. The host link: BAR0 registers with a behaviour of their own, BAR2, configuration writes, the link and
its power states (R420, R421, R428 to R437, R443, R445, R507, R508). -/

namespace Sys2Proof.Machine

/-! ### What the host reads -/

/-- A completion with data for the host (log 10). -/
def complete (s : State) (bs : List Byte) (ep : Bool) : State :=
  { s with pcie := { s.pcie with readOut := bs, readEp := ep } }

/-- The operating point in force as OPPOINT codes it. -/
def opPoint (s : State) : Nat := s.pow.opNow

/-- HOLD_CAUSE, 0 outside HOLD (R406). -/
def holdCause (s : State) : Nat := if s.job.state = 3 then s.job.cause else 0

/-- The identity and status page (R432), its bits [639:0]. -/
def identityPage (s : State) : BitVec 640 :=
  let i := s.ident
  packRec 640 [(15, 0, 0x5CE1), (31, 16, 0x0B71), (39, 32, s.fuses.revId.toNat), (47, 40, bit s.fuses.order512),
    (55, 48, i.stage), (63, 56, lifecycleOf s.fuses), (71, 64, s.job.state), (79, 72, holdCause s), (87, 80, opPoint s),
    (95, 88, i.resetCause), (127, 96, i.fwVersion.toNat), (159, 128, s.fuses.rollback), (175, 160, i.fabricAddr.toNat),
    (191, 176, s.pow.cap), (255, 192, i.chFail.toNat), (303, 256, i.jobStep.toNat), (351, 320, i.committed.toNat),
    (447, 384, timebase s), (448, 448, bit i.nmiClock), (449, 449, bit s.clk.onOsc), (575, 512, i.dmaBase.toNat),
    (639, 576, i.imageAddr.toNat)]

/-- Record n of the trace ring as a view slot shows it: zero below WR − CAP or at WR or above (R508). -/
def traceRecord (s : State) (n : Nat) : BitVec 256 :=
  let wr := s.obs.wr.toNat
  let cap := traceCap s
  if n < wr ∧ wr ≤ n + cap then mapGet s.obs.ring (n % cap) 0 else 0

/-- The event queue control block (R420). -/
def eventBlock (s : State) : BitVec 512 :=
  let q := s.evq
  packRec 512 [(63, 0, q.base.toNat), (68, 64, q.log2n.toNat), (72, 72, bit q.enable), (127, 96, q.tail.toNat),
    (159, 128, q.head.toNat), (191, 160, q.lost.toNat), (319, 192, q.vecmap.toNat)]

/-- The trace control block (R507). -/
def traceBlock (s : State) : BitVec 512 :=
  packRec 512 [(63, 0, s.obs.wr.toNat), (127, 64, s.obs.rdBase.toNat), (191, 128, traceCap s), (255, 192, s.obs.dropped.toNat)]

/-- A mailbox window's word: header and payload, then MB_CTRL, whose GO reads zero (R14, R391, R392). -/
def windowWord (b : Mailbox) (off : Nat) : Nat :=
  if off < 0xFF0 then natOfBytes (windowGet b off 4)
  else if off = 0xFF0 then b.state * 2 + b.ignored * 256
  else 0

/-- What an aligned 32-bit read of BAR0 returns: zero at an offset the map does not list and in a field that is write-only or reserved;
the high word of TIMEBASE as latched, and words 2 to 7 of a view slot from its latch (R14, R431, R432, R441, R443, R500, R507, R508). -/
def bar0Word (s : State) (off : Nat) : Nat :=
  if off = 52 then (match s.clk.latch with | some x => x.toNat | none => timebase s / 2 ^ 32 % 2 ^ 32)
  else if off < 80 then (identityPage s).toNat / 2 ^ (8 * off) % 2 ^ 32
  else if 0x1000 ≤ off ∧ off < 0x5000 then windowWord (boxAt s ((off - 0x1000) / 0x1000)) (off % 0x1000)
  else if 0x8000 ≤ off ∧ off < 0x8040 then (eventBlock s).toNat / 2 ^ (8 * (off - 0x8000)) % 2 ^ 32
  else if 0xC000 ≤ off ∧ off < 0xD000 then
    (if s.ident.stage = 1 then 0 else (mapGet s.obs.snapshot ((off - 0xC000) / 8 * 8) 0).toNat / 2 ^ (8 * (off % 8)) % 2 ^ 32)
  else if 0xD000 ≤ off ∧ off < 0xD040 then (traceBlock s).toNat / 2 ^ (8 * (off - 0xD000)) % 2 ^ 32
  else if 0xD800 ≤ off ∧ off < 0xE000 then
    let j := (off - 0xD800) / 32
    let r := if s.ident.stage = 1 then 0
      else if off % 32 < 8 then traceRecord s (s.obs.rdBase.toNat + j) else mapGet s.obs.latch j 0
    r.toNat / 2 ^ (8 * (off % 32)) % 2 ^ 32
  else if 0xE000 ≤ off ∧ off < 0xE400 then (msixEntry s ((off - 0xE000) / 16)).toNat / 2 ^ (8 * (off % 16)) % 2 ^ 32
  else if 0xF000 ≤ off ∧ off < 0xF008 then s.pcie.pba.toNat / 2 ^ (8 * (off - 0xF000)) % 2 ^ 32
  else 0

/-! ### Event queue control (R420, R421) -/

/-- A write of the control block's word that holds LOG2N and ENABLE: LOG2N only while ENABLE is 0; setting ENABLE clears
TAIL, HEAD and LOST (R421). -/
def writeEnable (q : EvqSt) (v : Nat) : EvqSt :=
  let on := v.testBit 8
  let q := if q.enable then q else { q with log2n := BitVec.ofNat 5 v }
  if on && !q.enable then { q with enable := true, tail := 0, head := 0, lost := 0, fullSince := none }
  else { q with enable := on }

/-- A host write of HEAD frees entries and restarts the timeout of R374. -/
def writeHead (s : State) (v : BitVec 32) : State :=
  let q := { s.evq with head := v }
  { s with evq := { q with fullSince := if evqFull q then some (timebase s) else none } }

/-- EQ_ENABLE_WRITE (R421): bits [127:64] of the control block; TAIL in the upper half is read-only. -/
def execEqEnableWrite (value : BitVec 64) (s : State) : Host.Outcome State Fault Refusal :=
  .next (if hostReaches s then { s with evq := writeEnable s.evq value.toNat } else s)

/-- EQ_HEAD_WRITE (R374, R420). -/
def execEqHeadWrite (value : BitVec 32) (s : State) : Host.Outcome State Fault Refusal :=
  .next (if hostReaches s then writeHead s value else s)

/-! ### The identity page and the trace view -/

/-- TIMEBASE_LOW_READ (R443): the low word is returned, the high word latched for its next read. -/
def execTimebaseLowRead (s : State) : Host.Outcome State Fault Refusal :=
  .next (
    if hostReaches s then
      let t := timebase s % 2 ^ 64
      complete { s with clk := { s.clk with latch := some (BitVec.ofNat 32 (t / 2 ^ 32)) } } (bytesOfNat 4 t) false
    else s)

/-- NMI_CLOCK is RW1C: a 1 in its bit clears it (R14, R432). -/
def clearNmi (s : State) (v : Nat) : State :=
  if v.testBit 0 then { s with ident := { s.ident with nmiClock := false } } else s

/-- NMI_CLOCK_CLEAR (R432): a write of the page's word that holds NMI_CLOCK. -/
def execNmiClockClear (value : BitVec 64) (s : State) : Host.Outcome State Fault Refusal :=
  .next (if hostReaches s then clearNmi s value.toNat else s)

/-- TRACE_SLOT_READ (R441, R508): word 0 of a view slot, the whole record latched; zero while STAGE is 1. -/
def execTraceSlotRead (slot : Fin 64) (s : State) : Host.Outcome State Fault Refusal :=
  .next (
    if hostReaches s then
      let r := if s.ident.stage = 1 then 0 else traceRecord s (s.obs.rdBase.toNat + slot.val)
      complete { s with obs := { s.obs with latch := sparseSet 0 s.obs.latch slot.val r } } (bytesOfNat 8 r.toNat) false
    else s)

/-! ### BAR2 (R433) -/

/-- An access of n bytes at offset a lies in the window the BAR2 size gives. -/
def inBar2 (s : State) (a n : Nat) : Bool := decide (a + n ≤ 2 ^ s.pcie.bar2Log2)

/-- BAR2_READ (R433): data, 0xFF where no page can be reached, the EP bit for a bad word. -/
def execBar2Read (addr : BitVec 40) (n : Nat) (s : State) : Host.Outcome State Fault Refusal :=
  .next (
    if !hostReaches s || !inBar2 s addr.toNat n then s
    else
      let (s, bs) := loadSpan s addr.toNat n
      complete s (bs.map fun b => if b.2 = 2 then 0xFF else b.1) (bs.any fun b => b.2 == 1))

/-- BAR2_WRITE (R215, R247, R248, R433): merged and tagged, or discarded and counted. -/
def execBar2Write (addr : BitVec 40) (bytes : List Byte) (s : State) : Host.Outcome State Fault Refusal :=
  .next (
    if !hostReaches s || !inBar2 s addr.toNat bytes.length then s
    else
      let (s, lost) := storeSpan s addr.toNat bytes false
      if lost then { s with pcie := { s.pcie with bar2Discards := s.pcie.bar2Discards + 1 } } else s)

/-! ### Link, power states, configuration (R374, R430, R433, R436, R439, R445) -/

/-- PCIE_LINK_DOWN (R374): without a reset, so the host is lost. -/
def execPcieLinkDown (s : State) : Host.Outcome State Fault Refusal :=
  .next (if s.pcie.linkUp then hostLost { s with pcie := { s.pcie with linkUp := false } } 0 else s)

/-- PCIE_LINK_UP (R439): the PCIe side needs its rails and every reset pin released. -/
def execPcieLinkUp (s : State) : Host.Outcome State Fault Refusal :=
  .next (
    if s.pins.railsOn && s.pins.perstN && s.pins.modResetN then { s with pcie := { s.pcie with linkUp := true } } else s)

/-- D3HOT_ENTRY (R430). -/
def execD3hotEntry (s : State) : Host.Outcome State Fault Refusal :=
  .next (if s.pcie.linkUp then { s with pcie := { s.pcie with d3hot := true } } else s)

/-- D0_RETURN (R430). -/
def execD0Return (s : State) : Host.Outcome State Fault Refusal :=
  .next (if s.pcie.linkUp then { s with pcie := { s.pcie with d3hot := false } } else s)

/-- A configuration write (R433, R436, R445): BAR2 is resized only while memory decode is disabled. -/
def configWrite (p : PcieSt) : CfgWrite → PcieSt
  | .busMaster on => { p with busMaster := on }
  | .memDecode on => { p with memDecode := on }
  | .bar2Size n => if !p.memDecode && decide (36 ≤ n) && decide (n ≤ 40) then { p with bar2Log2 := n } else p

/-- PCIE_CONFIG_WRITE (R433, R436). -/
def execPcieConfigWrite (w : CfgWrite) (s : State) : Host.Outcome State Fault Refusal :=
  .next (if s.pcie.linkUp then { s with pcie := configWrite s.pcie w } else s)

/-- NMI_DEFERRED_SIGNAL (R423, R445): vector 0 once bus mastering has returned. -/
def execNmiDeferredSignal (s : State) : Host.Outcome State Fault Refusal :=
  .next (
    if s.ident.nmiDue && canMaster s then signalVector { s with ident := { s.ident with nmiDue := false } } 0 else s)

end Sys2Proof.Machine
end

