-- ==== Sys2Proof/Machine/Jobs.lean ====
section
/-! DEFINITION. Commands of the module and of the job as a whole: IDENTIFY, CONFIG, JOB_SETUP to JOB_PARAM, SEAL_CONFIG, RESTORE and
PULL_SERVE (R4, R10 to R12, R349 to R351, R371 to R374, R379 to R385, R400 to R416). -/

namespace Sys2Proof.Machine

/-! ### IDENTIFY and CONFIG (R406) -/

/-- HOLD_CAUSE, 0 outside HOLD (R406). -/
def causeNow (s : State) : Nat := if s.job.state = 3 then s.job.cause else 0

/-- IDENTIFY (R406). -/
def cmdIdentify : Command := fun s _ =>
  let i := s.ident
  (s, done (bytesOfNat 2 0x5CE1 ++ bytesOfNat 2 0x0B71 ++ bytesOfNat 2 s.fuses.revId.toNat ++ bytesOfNat 1 (bit s.fuses.order512) ++
    bytesOfNat 1 i.stage ++ bytesOfNat 1 (lifecycleOf s.fuses) ++ bytesOfNat 1 s.job.state ++ bytesOfNat 1 (causeNow s) ++
    bytesOfNat 1 s.pow.opNow ++ bytesOfNat 4 i.fwVersion.toNat ++ bytesOfNat 4 s.fuses.rollback ++ bytesOfNat 2 i.fabricAddr.toNat ++
    bytesOfNat 2 s.pow.cap ++ bytesOfNat 8 i.chFail.toNat ++ bytesOfNat 6 i.jobStep.toNat ++ bytesOfNat 2 0 ++
    bytesOfNat 4 i.committed.toNat ++ bytesOfNat 20 0))

/-- The data rate a RATE code names, MT/s (R231, R406). -/
def rateOf : Nat → Nat
  | 1 => 9600
  | 2 => 10667
  | _ => 12800

/-- CONFIG (R231, R252, R316, R406). -/
def cmdConfig : Command := fun s r =>
  let v := (byteAt r.payload 0).toNat
  if v.testBit 0 && (List.range 24).any (fun p => (portAt s p).state != 0) then (s, refuse REFUSE_CONFIG_STATE 406 0 2)
  else
    let i := s.ident
    let i := if v.testBit 0 then { i with fabricAddr := BitVec.ofNat 16 (leAt r.payload 2 2) } else i
    let i := if v.testBit 1 then { i with nextRate := rateOf (byteAt r.payload 1).toNat } else i
    let i := if v.testBit 2 then { i with ceLimit := BitVec.ofNat 32 (leAt r.payload 4 4) } else i
    ({ s with ident := i }, done [])

/-! ### JOB_SETUP (R4, R12, R299, R349 to R351, R410) -/

/-- Rows 1 to 4 of R350 on a seal descriptor, for a job whose barrier group is b. -/
def sealConfigBad (s : State) (b : Nat) (d : BitVec 256) : Option Nat :=
  let member := fun (a : Nat) => match groupOf s b with
    | some g => (memberIndex g a).isSome
    | none => false
  let lost := fld d 207 192
  let host := fld d 223 208
  firstBad [(1, sdBuddy d == 0xFFFF || sdBuddy d == ownAddr s || sdOrigin d == ownAddr s),
    (2, !member (sdBuddy d) || (sdOrigin d != 0xFFFF && !member (sdOrigin d))),
    (3, sdBuddyTray d == sdTray d),
    (4, (lost != 0 && (decide (lost < 100) || decide (60000 < lost))) || decide (3600 < host))]

/-- The fields of JOB_SETUP that R410 refuses, by offset. -/
def setupBad (s : State) (p : List Byte) : Option Nat :=
  let b := fun i => (byteAt p i).toNat
  let ge := signedOf 8 (b 22)
  let fb := leAt p 14 2
  firstBad [(11, decide (3 < b 11)), (12, decide (1 < b 12) || (b 12 == 1 && b 11 == 0)), (13, (groupOf s (b 13)).isNone),
    (14, decide (256 < fb) && fb != 0xFFFF), (22, decide (ge < -32) || decide (32 < ge))]

/-- No stage queue and no barrier frame is left of a job that was. -/
def freshBarrier (f : FabSt) : FabSt :=
  { f with queues := [], barrier := [], securedOf := [], replays := [], ownBarrier := none }

/-- The job that JOB_SETUP opens (R279, R346, R410). -/
def newJob (p : List Byte) : JobSt :=
  let fb := leAt p 14 2
  let grow := leAt p 24 4
  let spill := leAt p 28 4
  let t0 := BitVec.ofNat 48 (leAt p 16 6)
  { JobSt.none with
    state := 1, seed := BitVec.ofNat 64 (leAt p 0 8), rank := BitVec.ofNat 24 (leAt p 8 3), kind := leAt p 11 1,
    gather := leAt p 12 1, barrier := leAt p 13 1, fbAllow := if fb = 0xFFFF then 16 else fb, t0 := t0, lastBegun := t0,
    update := packRec 128 [(7, 0, leAt p 22 1), (79, 48, if grow = 0xFFFFFFFF then 2000 else grow)],
    spillPages := if spill = 0 then 32 else spill, sealDesc := BitVec.ofNat 256 (leAt p 32 32) }

/-- Module addresses of the on-chip pages: store pages and scratchpad pages of every guild, and whether each is job space (R241). -/
def onChipPages : List (Nat × Bool) :=
  (List.range 16).flatMap fun g =>
    ((List.range 16).map fun i => (storeOf g + i * 0x200000, decide (3 ≤ i))) ++
      (List.range 16).map fun j => (scratchBase + (8 * g + j / 2) * 0x400000 + j % 2 * 0x200000, true)

/-- Entries of the on-chip pages: job space mapped, pages 0 to 2 of each store with SYS (R241, R410, log 9). -/
def mapOnChip (s : State) : State :=
  onChipPages.foldl (fun s p =>
    match entryAddr p.1 with
    | some ea => writeEntry s ea (pmEntry false 0 (!p.2) 0 0 0)
    | none => s) s

/-- RESERVE asks the buddy for room for the initial seal, unless TAKEOVER takes none (R349, R351, R367, log 23). -/
def askReserve (s : State) : State := if sdTakeover s.job.sealDesc then s else sendReserve s (gen0 s).toNat

/-- JOB_SETUP (R410): out-of-range fields, then the seal descriptor, then ranks (log 39). -/
def cmdJobSetup : Command := fun s r =>
  let p := r.payload
  match setupBad s p with
  | some o => (s, refuse REFUSE_JOB_DESC 410 0 o)
  | none =>
    let t : State := { s with job := newJob p }
    match sealConfigBad s t.job.barrier t.job.sealDesc with
    | some row => (s, refuse REFUSE_SEAL_CONFIG 350 row 0)
    | none =>
      match sealSpaceBad 0 t with
      | some row => (s, refuse REFUSE_SEAL_SPACE 351 row 0)
      | none =>
        match rankClash t t.job.rank.toNat with
        | some a => (s, refuseWith REFUSE_KEY_DUPLICATE 299 2 t.job.rank.toNat { item2 := a })
        | none =>
          let fab := freshBarrier (clearMessages s).fab
          let t := { t with ident := { s.ident with jobStep := t.job.t0, committed := 0 }, sealer := SealSt.none,
                            buddy := BuddySt.none, restore := none, step := StepSt.none, assay := AssaySt.none, fab := fab }
          (askReserve (mapOnChip t), done [])

/-! ### JOB_ADMIT (R411, R413 to R416) -/

/-- An array of n records of `size` bytes at address a, none where it cannot be read. -/
def readArray (s : State) (a n size : Nat) : State × Option (List Nat) :=
  if n = 0 then (s, some [])
  else match fetchBytes s a (n * size) with
    | (s, some bs) => (s, some ((List.range n).map fun i => leAt bs (size * i) size))
    | (s, none) => (s, none)

/-- A steered layer at the job's first step (R170). -/
def newLayer (s : State) (i : Nat) (d : BitVec 384) : SteerLayer :=
  let w := if stPinWt d = 0 then stWinit d else stPinWt d
  let a := if stPinAct d = 0 then stWinit d else stPinAct d
  let nb := if stBlock d then ceilDiv (weightShape s (stW d)).1 64 else 0
  { index := i, desc := d, layer := packRec 2048 [(3, 0, w), (7, 4, a)],
    blocks := List.replicate nb (packRec 64 [(19, 16, w)]),
    outliers := List.replicate (if stOutOff d then 0 else stAllow d) 0xFFFFFFFF, pinWt := stPinWt d, pinAct := stPinAct d,
    extra := [] }

/-- Layers in increasing layer number. -/
def sortLayers (ls : List SteerLayer) : List SteerLayer :=
  (ls.foldl (fun (acc : List (Nat × SteerLayer)) l => mapSet acc (stLayer l.desc) l) []).map (·.2)

/-- A stage queue as set up (R340 to R342). -/
def newQueue (r : Nat) : Nat × StageQueue :=
  (sqQueue (BitVec.ofNat 256 r), ⟨BitVec.ofNat 256 r, 0, 0, 0, [], []⟩)

/-- Waybill images in the guild stores: one of each waybill in every home guild that a plan needs it in, key 2^16 × guild + waybill
(R203, R241, R411). -/
def storeImages (s : State) (plans : List (Nat × Plan)) : List (Nat × List Byte) :=
  ((List.range 16).flatMap fun g => (guildWaybills plans g).filterMap fun h =>
    (mapFind s.job.waybills h).map fun img => (2 ^ 16 * g + h, img.take (32 + 8 * wLength img))).foldl
      (fun (m : List (Nat × List Byte)) e => mapSet m e.1 e.2) []

/-- Bench columns reserved for each layer with an outlier allowance A: ⌈A/16⌉ (R119). -/
def reservedBenches (ls : List SteerLayer) : List (Nat × Nat) :=
  (ls.filter fun l => !stOutOff l.desc && stAllow l.desc != 0).foldl
    (fun (m : List (Nat × Nat)) l => mapSet m (stLayer l.desc) (ceilDiv (stAllow l.desc) 16)) []

/-- What JOB_ADMIT puts in place before its plans are checked: layers, buffers, stage queues, deadlines and budgets, the waybill
images and the reserved bench columns. -/
def placeArrays (s : State) (p : List Byte) (np : Nat) (steer : List Nat) (bufs : List Nat) (sqs : List Nat) : State :=
  let ds := steer.map fun x => (BitVec.ofNat 384 x : BitVec 384)
  let ls := sortLayers ((List.range ds.length).map fun i => newLayer s i (ds.getD i 0))
  let plans := s.job.plans.map fun e =>
    if e.1 < np then (e.1, { e.2 with deadline := leAt p (32 + 16 * e.1) 8, energy := leAt p (40 + 16 * e.1) 4 }) else e
  let qs := sqs.foldl (fun (acc : List (Nat × StageQueue)) r => let q := newQueue r; mapSet acc q.1 q.2) []
  let bs := bufs.foldl (fun (acc : List (Nat × BitVec 64)) b => mapSet acc (natFld b 11 0) (BitVec.ofNat 64 b)) []
  let s := { s with job := { s.job with steer := ls, plans := plans, buffers := bs }, fab := { s.fab with queues := qs } }
  { s with job := { s.job with images := storeImages s (plans.filter fun e => decide (e.1 < np)), benches := reservedBenches ls } }

/-- The checks of R166, R219, R242, R299, R351 and R411 on what has been placed. -/
def admitChecks (s : State) (ds : List (BitVec 384)) (bufs : List (BitVec 64)) (plans : List (Nat × Plan)) : Option Reply :=
  let images := s.job.waybills.map (·.2)
  match steersBad s ds with
  | some (row, i) => some (refuse REFUSE_STEER 166 row i)
  | none =>
    match flowCycle images with
    | some (a, b) => some (refuseWith REFUSE_STREAM_CYCLE 219 0 a { item2 := b })
    | none =>
      match buffersBad bufs with
      | some b => some (refuse REFUSE_FOOTPRINT 242 1 b)
      | none =>
        match (List.range 16).find? fun g => decide (0x100000 < assayBytes s ds g) with
        | some g => some (refuse REFUSE_FOOTPRINT 242 2 g)
        | none =>
          match (List.range 16).find? fun g => decide (0x40000 < guildImages s plans g) with
          | some g => some (refuse REFUSE_FOOTPRINT 411 3 g)
          | none =>
            match keyClash s s.job.overrides with
            | some (a, b) => some (refuseWith REFUSE_KEY_DUPLICATE 299 1 a { item2 := b })
            | none =>
              match rankClash s s.job.rank.toNat with
              | some a => some (refuseWith REFUSE_KEY_DUPLICATE 299 2 s.job.rank.toNat { item2 := a })
              | none => (sealSpaceBad 0 s).map fun row => refuse REFUSE_SEAL_SPACE 351 row 0

/-- Every plan with its figures (R415). -/
def figurePlans (s : State) (np : Nat) : State :=
  let r := s.job.plans.foldl (fun (acc : State × List (Nat × Plan)) e =>
    if e.1 < np then let (s, p) := figured acc.1 e.2; (s, acc.2 ++ [(e.1, p)]) else (acc.1, acc.2 ++ [e])) (s, [])
  { r.1 with job := { r.1.job with plans := r.2 } }

/-- ΔT of every layer (R152). -/
def figureLayers (s : State) : State :=
  { s with job := { s.job with steer := s.job.steer.map fun l => { l with extra := rungTimes s l } } }

/-- The reply of JOB_ADMIT at the present operating point; LIMIT is free (R414, R415, log 34). -/
def admitReply (s : State) (np : Nat) : State × List Byte :=
  (List.range np).foldl (fun (acc : State × List Byte) i =>
    let p := mapGet acc.1.job.plans i ⟨[], false, 0, 0, [], []⟩
    let (s, lim) := freeBelow acc.1 10
    (s, acc.2 ++ bytesOfNat 8 (p.guar.getD s.pow.opNow 0) ++ bytesOfNat 4 (p.est.getD s.pow.opNow 0) ++ bytesOfNat 4 (lim + 1)))
    (s, [])

/-- The job is admitted: RESERVE goes to the buddy and the initial seal begins, unless TAKEOVER awaits a restore (R346, R349, R357,
R367, R371). -/
def beginJob (s : State) : State :=
  let s := { s with job := { s.job with admitted := true }, pow := { s.pow with forced := false } }
  if sdTakeover s.job.sealDesc then s else initialSeal (if s.sealer.reserve.isNone then askReserve s else s)

/-- JOB_ADMIT (R414): nothing of it stands where it is refused. STEER_N above 4,096 answers R534's refusal, not that of R166's row 1
(DESIGN CHOICE, log 82). -/
def cmdJobAdmit : Command := fun s r =>
  let p := r.payload
  let np := (byteAt p 29).toNat
  let (sn, bn, qn) := (leAt p 24 2, leAt p 26 2, (byteAt p 28).toNat)
  let unloaded := (List.range np).any fun i => (mapFind s.job.plans i).isNone
  if s.job.admitted then (s, refuse REFUSE_STATE 403 0 0)
  else match firstBad [(29, np == 0 || decide (8 < np) || unloaded), (24, decide (4096 < sn)), (26, decide (4096 < bn)), (28, decide (64 < qn))] with
  | some o => (s, refuse REFUSE_JOB_DESC 534 9 o)
  | none =>
    let (s, steer) := readArray s (leAt p 0 8) sn 48
    let (s, bufs) := readArray s (leAt p 8 8) bn 8
    let (s, sqs) := readArray s (leAt p 16 8) qn 32
    match steer, bufs, sqs with
    | some steer, some bufs, some sqs =>
      let ds := steer.map fun x => (BitVec.ofNat 384 x : BitVec 384)
      let t := placeArrays s p np steer bufs sqs
      let plans := t.job.plans.filter fun e => decide (e.1 < np)
      match admitChecks t ds (bufs.map fun b => BitVec.ofNat 64 b) plans with
      | some rep => (s, rep)
      | none =>
        match plans.findSome? fun e => planBad t e.1 e.2 with
        | some rep => (s, rep)
        | none =>
          let t := figurePlans (figureLayers t) np
          match admitRefusal t (t.job.plans.filter fun e => decide (e.1 < np)) t.pow.opNow t.pow.cap with
          | (t', some rep) => ({ s with freeCtr := t'.freeCtr }, rep)
          | (t, none) =>
            let (t, body) := admitReply t np
            (beginJob t, done body)
    | _, _, _ => (s, status DMA_FAULT)

/-! ### JOB_END, JOB_HOLD, JOB_RESUME, JOB_PARAM (R371 to R374, R400, R401, R404) -/

/-- Every page the job mapped is written with the wipe's pattern and unmapped (R404). -/
def clearPages (s : State) : State :=
  let s := (s.job.tensors.flatMap fun e => tdPages e.2.desc).foldl (fun s v =>
    match entryAddr (v * 0x200000) with
    | none => s
    | some ea =>
      let (s, e) := lookupEntry s ea
      writeEntry (if pmValid e then clearFrame s (pmHome e) (pmFrame e) else s) ea 0) s
  let inJob := fun (a : Nat) => decide (scratchBase ≤ a) && (decide (a < storeBase) || decide (0x600000 ≤ (a - storeBase) % 0x2000000))
  let s := { s with mem := { s.mem with data := s.mem.data.filter fun c => !inJob c.1,
                                        metadata := s.mem.metadata.filter fun c => !inJob (c.1 * 8) } }
  onChipPages.foldl (fun s p => match p.2, entryAddr p.1 with | true, some ea => writeEntry s ea 0 | _, _ => s) s

/-- The job is gone: its records, messages and engines; groups, routes and the module configuration remain, and an OP_SET or POWER_CAP
that waited for a boundary takes effect, since no step runs any more (R10, R404, R495). No ROUTE_WRITE waits then: JOB_END comes in its
mailbox or in that of the RESTORE (R400). -/
def endJob (s : State) : State :=
  let due := s.job.due.filter fun c => match c with | .opSet .. => true | .powerCap .. => true | _ => false
  let s := clearPages (due.foldl applyDue (abandonStep (abortInFlight s)))
  let fab := freshBarrier (clearMessages s).fab
  let pow := { s.pow with opPurse := 2, forced := false }
  let s : State :=
    { s with job := JobSt.none, step := StepSt.none, eng := { EngSt.none with lacc := s.eng.lacc }, assay := AssaySt.none,
             sealer := SealSt.none, buddy := BuddySt.none, restore := none, fab := fab, pow := pow,
             ident := { s.ident with jobStep := 0, committed := 0 }, mem := { s.mem with ueRaised := [] },
             obs := { s.obs with counters := s.obs.counters.filter fun c => decide (c.1 < 0x1000) } }
  settlePoint s true

/-- JOB_END (R400, R404). -/
def cmdJobEnd : Command := fun s _ => (endJob s, done [])

/-- JOB_HOLD (R372): HOLD with cause HOST_CMD. -/
def cmdJobHold : Command := fun s _ => (enterHold s 2, done [])

/-- The module runs again after HOST_LOST: HOLDING is cleared from its barrier frames; one that held before its replay barrier sends
REPLAY now (R371, R374). -/
def resume (s : State) : State :=
  let s := { s with job := { s.job with state := 2, cause := 0, holdDue := false } }
  let s :=
    if s.step.barrier = 2 then afterRestore { s with job := { s.job with holding := false } } else reflagHolding s false
  tryBarrier s

/-- JOB_RESUME (R371, R374, R403): only from a hold of cause HOST_LOST. -/
def cmdJobResume : Command := fun s _ =>
  if s.job.cause = 3 then (resume s, done []) else (s, refuse REFUSE_STATE 403 0 0)

/-- JOB_PARAM (R279, R401): applies at the next boundary. -/
def cmdJobParam : Command := fun s r =>
  let p := r.payload
  (putDue s (.jobParam (byteAt p 0).toNat (byteAt p 1) (BitVec.ofNat 32 (leAt p 4 4))), done [])

/-! ### SEAL_CONFIG, RESTORE, PULL_SERVE (R349 to R351, R370, R379 to R385) -/

/-- SEAL_CONFIG (R349 to R351, R385): a new buddy takes the next shipment in full, and in SETUP it is asked for room at once. -/
def cmdSealConfig : Command := fun s r =>
  let d := BitVec.ofNat 256 (leAt r.payload 0 32)
  match sealConfigBad s s.job.barrier d with
  | some row => (s, refuse REFUSE_SEAL_CONFIG 350 row 0)
  | none =>
    let moved := sdBuddy d != sdBuddy s.job.sealDesc
    let sl := if moved then { s.sealer with newBuddy := true, reserve := none } else s.sealer
    let t : State := { s with job := { s.job with sealDesc := d }, sealer := sl }
    match sealSpaceBad (reserveNeed s) t with
    | some row => (s, refuse REFUSE_SEAL_SPACE 351 row 0)
    | none => (if moved && s.job.state == 1 then askReserve t else t, done [])

/-- A generation a local restore may target: committed, or later and sealed locally (R379). -/
def localTarget (s : State) (x : BitVec 32) : Bool :=
  (x == s.ident.committed || laterGen x s.ident.committed) && (localRecord s x).isSome

/-- RESTORE from the staging area (R379, R380, R382): at once, or once the pages that only the buddy holds have come. -/
def restoreHere (s : State) (m : Nat) (rank : BitVec 24) (x : BitVec 32) (cursor : BitVec 48) : State × Reply :=
  match (if localTarget s x then localRecord s x else none) with
  | none => (s, refuse REFUSE_RESTORE_TARGET 382 1 0)
  | some rec_ =>
    match checkRecord s rec_ x rank cursor with
    | some (row, item) => (s, refuse REFUSE_RESTORE_MISMATCH 382 row item)
    | none =>
      let r : RestoreSt := ⟨false, rank, x, cursor, none, [], s.job.state, none⟩
      let s := restoreLocal { s with job := { s.job with state := 4, dispatches := [] } } r rec_
      match s.restore with
      | some r => ({ s with restore := some { r with mailbox := some m } }, { done [] with busy := some .restore })
      | none => (s, done [])

/-- RESTORE by a pull from the buddy (R381): the image is asked for, and the command runs on. -/
def restoreAway (s : State) (m : Nat) (rank : BitVec 24) (x : BitVec 32) (cursor : BitVec 48) : State × Reply :=
  let r : RestoreSt := ⟨true, rank, x, cursor, some m, [], s.job.state, none⟩
  let s := { s with job := { s.job with state := 4, dispatches := [] }, restore := some r, sealer := { s.sealer with incoming := [] } }
  (sendSeal s (sdBuddy s.job.sealDesc) 8 0 x.toNat 0, { done [] with busy := some .restore })

/-- RESTORE (R379, R403): in HOLD, or in SETUP with TAKEOVER. -/
def cmdRestore : Command := fun s r =>
  let p := r.payload
  let rank := BitVec.ofNat 24 (leAt p 1 3)
  let x := BitVec.ofNat 32 (leAt p 4 4)
  let cursor := BitVec.ofNat 48 (leAt p 8 6)
  if s.job.state = 1 ∧ !sdTakeover s.job.sealDesc then (s, refuse REFUSE_STATE 403 0 0)
  else if byteAt p 0 == 0 then restoreHere s r.box rank x cursor
  else restoreAway s r.box rank x cursor

/-- PULL_SERVE (R370, R425). -/
def cmdPullServe : Command := fun s r =>
  let spare := leAt r.payload 0 2
  if spare = 0xFFFF ∨ spare = ownAddr s ∨ sdOrigin s.job.sealDesc = 0xFFFF then (s, refuse REFUSE_PULL_SERVE 370 0 0)
  else ({ s with buddy := { s.buddy with serve := some (spare, BitVec.ofNat 32 (leAt r.payload 4 4)) } }, done [])

/-! ### The rows -/

def execIdentify (rq : MbReq) (s : State) : Host.Outcome State Fault Refusal := .next (mailboxRow 0x0001 cmdIdentify rq s)
def execConfig (rq : MbReq) (s : State) : Host.Outcome State Fault Refusal := .next (mailboxRow 0x0005 cmdConfig rq s)
def execJobSetup (rq : MbReq) (s : State) : Host.Outcome State Fault Refusal := .next (mailboxRow 0x0010 cmdJobSetup rq s)
def execJobAdmit (rq : MbReq) (s : State) : Host.Outcome State Fault Refusal := .next (mailboxRow 0x0011 cmdJobAdmit rq s)
def execJobEnd (rq : MbReq) (s : State) : Host.Outcome State Fault Refusal := .next (mailboxRow 0x0012 cmdJobEnd rq s)
def execJobHold (rq : MbReq) (s : State) : Host.Outcome State Fault Refusal := .next (mailboxRow 0x0013 cmdJobHold rq s)
def execJobResume (rq : MbReq) (s : State) : Host.Outcome State Fault Refusal := .next (mailboxRow 0x0014 cmdJobResume rq s)
def execJobParam (rq : MbReq) (s : State) : Host.Outcome State Fault Refusal := .next (mailboxRow 0x0015 cmdJobParam rq s)
def execSealConfig (rq : MbReq) (s : State) : Host.Outcome State Fault Refusal := .next (mailboxRow 0x0018 cmdSealConfig rq s)
def execRestoreLocal (rq : MbReq) (s : State) : Host.Outcome State Fault Refusal :=
  .next (mailboxRow 0x0019 cmdRestore (withAction rq 0 0) s)
def execRestorePull (rq : MbReq) (s : State) : Host.Outcome State Fault Refusal :=
  .next (mailboxRow 0x0019 cmdRestore (withAction rq 0 1) s)
def execPullServe (rq : MbReq) (s : State) : Host.Outcome State Fault Refusal := .next (mailboxRow 0x001A cmdPullServe rq s)

end Sys2Proof.Machine
end

