-- ==== Sys2Proof/Machine/LinkRows.lean ====
section
/-! DEFINITION. The rows of ports and of the link layer (R310, R314, R315, R318). -/

namespace Sys2Proof.Machine

/-- PORT_TRAINING_COMPLETE (R310, R314, R315). -/
def execPortTrainingComplete (port : Fin 24) (s : State) : Host.Outcome State Fault Refusal :=
  .next (portTrained s port.val)

/-- PCS_ALIGNMENT_LOSS (R314): more than 1 µs without alignment. -/
def execPcsAlignmentLoss (port : Fin 24) (s : State) : Host.Outcome State Fault Refusal :=
  .next (linkFailed s port.val 1)

/-- REPLAY_LIMIT (R314): one frame has been replayed 8 times and is not acknowledged. -/
def execReplayLimit (port : Fin 24) (s : State) : Host.Outcome State Fault Refusal :=
  .next (if (portAt s port.val).unacked.any fun u => decide (8 ≤ u.replays) then linkFailed s port.val 0 else s)

/-- FRAME_SEND (R312 to R316, R318). -/
def execFrameSend (index : Nat) (s : State) : Host.Outcome State Fault Refusal :=
  .next (if stopped s then s else sendWaiting s index)

/-- CREDIT_FRAME_TIMER (R315). -/
def execCreditFrameTimer (port : Fin 24) (s : State) : Host.Outcome State Fault Refusal :=
  .next (if stopped s then s else sendLink s port.val)

/-- LINK_FRAME (R314, R315): acknowledgements and credits, whatever the frame's addresses. -/
def execLinkFrame (port : Fin 24) (f : Frame) (s : State) : Host.Outcome State Fault Refusal :=
  .next (receive s port.val f (fun _ => false) (fun s _ => s))

end Sys2Proof.Machine
end

