-- ==== Sys2Proof/Machine/Tables.lean ====
section
/-! DEFINITION. Commands on the fabric tables and the key table, and those that observe: GROUP_WRITE, ROUTE_WRITE, OVERRIDE,
STATE_READ, COUNTER_SNAPSHOT and TRACE_CONFIG (R299 to R301, R317, R323 to R325, R347, R407, R495 to R501, R534 to R536). -/

namespace Sys2Proof.Machine

/-! ### GROUP_WRITE (R323 to R325) -/

/-- Groups that the job uses: its barrier group, those of its steering and tensor descriptors, and of its plans' collectives (R324). -/
def usedGroups (s : State) : List Nat :=
  (if jobExists s then [s.job.barrier] else []) ++ (s.job.steer.map fun l => stGroup l.desc) ++
    ((s.job.tensors.filter fun e => !tdLocal e.2.desc).map fun e => tdGroup e.2.desc) ++
    (s.job.plans.flatMap fun p => p.2.entries.filterMap fun e => if eKind e = 2 then some (cGroup (eColl e)) else none)

/-- The first case of R324 that a record of group g meets, with the entry; the rank counts only while a job exists. -/
def groupBad (s : State) (g : Nat) (x : GroupRec) : Option (Nat × Nat) :=
  let n := gNmemb x
  let me := gSelf x
  let early := fun (i : Nat) (p : Nat → Bool) => (List.range i).any p
  let addrBad := (List.range n).find? fun i =>
    memberAddr x i == 0xFFFF || early i fun j => memberAddr x j == memberAddr x i
  let rankBad := (List.range n).find? fun i =>
    i != me && early i fun j => j != me && memberRank x j == memberRank x i
  if n = 0 ∨ 16384 < n then some (1, 0)
  else if n ≤ me ∨ memberAddr x me ≠ ownAddr s ∨ (jobExists s ∧ memberRank x me ≠ s.job.rank.toNat) then some (2, me)
  else match addrBad with
    | some i => some (3, i)
    | none =>
      match rankBad with
      | some i => some (4, i)
      | none => if !gValid x && (usedGroups s).contains g then some (5, 0) else none

/-- The GEN of a new record may follow the old one's (R325, R347). -/
def genFollows (old new : BitVec 32) : Bool := laterGen new old && decide ((new - old).toNat ≤ 65536)

/-- The record of group g is x: what has arrived under another generation is dropped (R325). -/
def putGroup (s : State) (g : Nat) (x : GroupRec) : State :=
  rechoose { s with fab := { s.fab with groups := mapSet s.fab.groups g x, rx := s.fab.rx.filter fun m => m.group != g } }

/-- A group record from its bytes, its reserved bits not kept (R14, R323). -/
def groupOfBytes (bs : List Byte) : GroupRec :=
  ⟨BitVec.ofNat 256 (leAt bs 0 32 &&& 0x7FFFFFFFFFFF7FFF1FFF),
   (List.range ((bs.length - 32) / 8)).map fun i => BitVec.ofNat 64 (leAt bs (32 + 8 * i) 5)⟩

/-- ACTION 0: a record read at `a` replaces the old one as a whole (R324, R325). -/
def groupWrite (s : State) (g len a : Nat) : State × Reply :=
  match fetchBytes s a 32 with
  | (s, none) => (s, status DMA_FAULT)
  | (s, some hdr) =>
    if len ≠ 32 + 8 * natFld (natOfBytes hdr) 30 16 then (s, refuse REFUSE_GROUP 534 12 4)
    else if (byteAt hdr 0).toNat ≠ g then (s, refuse REFUSE_GROUP 534 12 0)
    else match fetchBytes s a len with
      | (s, none) => (s, status DMA_FAULT)
      | (s, some bs) =>
        let x := groupOfBytes bs
        let stale := match mapFind s.fab.groups g with | some old => !genFollows (gGen old) (gGen x) | none => false
        let twin := (List.range (gNmemb x)).find? fun i => i != gSelf x && memberRank x i == s.job.rank.toNat
        match groupBad s g x with
        | some (c, i) => (s, refuse REFUSE_GROUP 324 c i)
        | none =>
          if stale then (s, refuse REFUSE_GROUP 325 0 0)
          else match (if jobExists s then twin else none) with
            | some i => (s, refuseWith REFUSE_KEY_DUPLICATE 299 2 s.job.rank.toNat { item2 := memberAddr x i })
            | none =>
              let t := putGroup s g x
              match (if jobExists s then sealSpaceBad (reserveNeed s) t else none) with
              | some row => (s, refuse REFUSE_SEAL_SPACE 351 row g)
              | none => (t, done [])

/-- ACTION 1: the group is no longer VALID (R324). -/
def groupInvalidate (s : State) (g : Nat) : State × Reply :=
  if (usedGroups s).contains g then (s, refuse REFUSE_GROUP 324 5 0)
  else match mapFind s.fab.groups g with
    | some x => (putGroup s g { x with header := setFld x.header 12 12 0 }, done [])
    | none => (s, done [])

/-- GROUP_WRITE (R403, R427): in RUNNING only while no step is dispatched. -/
def cmdGroupWrite : Command := fun s r =>
  let p := r.payload
  let g := (byteAt p 0).toNat
  if s.job.state = 2 ∧ (stepRuns s ∨ s.job.dispatches ≠ []) then (s, refuse REFUSE_STATE 403 0 0)
  else if byteAt p 1 = 0 then groupWrite s g (leAt p 4 4) (leAt p 8 8)
  else groupInvalidate s g

/-! ### ROUTE_WRITE (R317, R320, R535) -/

/-- ROUTE_WRITE (R535): behind a RESTORE in progress, which changes route entries too, it waits (R400). -/
def cmdRouteWrite : Command := fun s r =>
  if restoreRuns s then (s, { done [] with busy := some .routes }) else writeRoutes s r

/-! ### OVERRIDE (R300) -/

/-- Units with an override in force once everything pending has taken effect. -/
def overridesDue (s : State) : List Nat :=
  s.job.due.foldl (fun (us : List Nat) c =>
    match c with
    | .overrideSet u _ => if us.contains u then us else us ++ [u]
    | .overrideRemove u => us.filter (· != u)
    | _ => us) (s.job.overrides.map (·.1))

/-- A vector-lane generator's unit number (R172, R290). -/
def laneUnit (u : Nat) : Bool := decide (256 ≤ u % 320) && decide (u / 320 < 128)

/-- The first rule of R300 that an OVERRIDE breaks, in the order listed. -/
def overrideBad (s : State) (u : Nat) (remove : Bool) (key : Nat) : Option Nat :=
  let due := overridesDue s
  let held := (mapFind s.job.overrides u).isSome || s.job.due.any fun c => match c with | .overrideSet x _ => x == u | _ => false
  firstBad [(1, !remove && !due.contains u && decide (256 ≤ due.length)), (2, !laneUnit u), (3, remove && !held),
    (4, !remove && (natFld key 89 88 != 3 || natFld key 87 64 != s.job.rank.toNat))]

/-- OVERRIDE (R300): applies at the next boundary. -/
def cmdOverride : Command := fun s r =>
  let p := r.payload
  let u := leAt p 0 2
  let remove := byteAt p 2 == 1
  match overrideBad s u remove (leAt p 8 16) with
  | some c => (s, refuse REFUSE_KEY_OVERRIDE 300 c u)
  | none => (putDue s (if remove then .overrideRemove u else .overrideSet u (BitVec.ofNat 128 (leAt p 8 16))), done [])

/-! ### STATE_READ (R407) -/

/-- Size of a unit of selector sel; 12 counts its members. -/
def unitSize (sel : Nat) : Nat := [0, 256, 8, 4, 16, 16, 64, 16, 32, 256, 8, 48, 8, 8].getD sel 8

/-- Module address whose page map entry selector 10 shows at index i. -/
def entryIndexAddr (i : Nat) : Nat :=
  if i < 0x80000000 then i * 0x200000
  else
    let g := (i - 0x80000000) / 32
    let j := (i - 0x80000000) % 32
    if j < 16 then storeOf g + j * 0x200000 else scratchBase + (8 * g + (j - 16) / 2) * 0x400000 + j % 2 * 0x200000

/-- The page map entry at index i, read as any word is; an index of no page has none (R246, R249, R407). -/
def entryAtIndex (s : State) (i : Nat) : State × Nat :=
  if decide (i < 2 ^ 19) || (decide (0x80000000 ≤ i) && decide (i < 0x80000200)) then lookupPage s (entryIndexAddr i) else (s, 0)

/-- Object i of selector sel, zero where it does not exist (R407). `x` is INDEX. -/
def stateUnit (s : State) (sel x i : Nat) : Nat :=
  let lay := x % 65536
  let k := x / 65536 + i
  match sel with
  | 1 => match layerOf s (x + i) with | some l => l.layer.toNat | none => 0
  | 2 => match layerOf s lay with | some l => (l.blocks.getD k 0).toNat | none => 0
  | 3 => match layerOf s lay with | some l => (l.outliers.getD k 0).toNat | none => 0
  | 4 => if x + i = 0 then s.job.update.toNat else 0
  | 5 => (millState s (x + i)).toNat
  | 6 => if x + i = 0 then s.job.drawHead.toNat else 0
  | 7 => (s.mem.ring.getD (x + i) 0).toNat
  | 8 => (s.job.faults.getD (x + i) 0).toNat
  | 9 => match s.job.reports.reverse.find? fun r => fld r 31 0 == (x + i) % 2 ^ 32 with | some r => r.toNat | none => 0
  | 11 => match (historyTensors s).find? fun e => e.1 == x + i with | some e => e.2.hist.toNat | none => 0
  | 13 => (mapGet s.fab.routes (x + i) 0).toNat
  | _ => 0

/-- Selector 12: the header, then members from the first wanted (R323). -/
def groupRead (s : State) (x n : Nat) : List Byte :=
  let g := mapGet s.fab.groups (x % 256) ⟨0, []⟩
  bytesOfNat 32 g.header.toNat ++
    ((List.range (min n 504)).map fun i => bytesOfNat 8 (g.members.getD (x / 256 + i) 0).toNat).flatten

/-- STATE_READ (R407): as many whole units as fit in 4,064 bytes. -/
def cmdStateRead : Command := fun s r =>
  let p := r.payload
  let (sel, x, n) := ((byteAt p 0).toNat, leAt p 4 4, leAt p 8 4)
  if sel = 12 then (s, done (groupRead s x n))
  else if sel = 10 then
    let (s, es) := (List.range (min n 508)).foldl (fun (acc : State × List Nat) i =>
      let (t, e) := entryAtIndex acc.1 (x + i)
      (t, acc.2 ++ [e])) (s, [])
    (s, done (es.map (bytesOfNat 8)).flatten)
  else
    let size := unitSize sel
    (s, done ((List.range (min n (4064 / size))).map fun i => bytesOfNat size (stateUnit s sel x i)).flatten)

/-! ### COUNTER_SNAPSHOT and TRACE_CONFIG (R497, R499, R501, R536) -/

/-- A counter as a snapshot copies it, the fused constants included (R495, R497). -/
def counterValue (s : State) (n : Nat) : BitVec 64 :=
  if 0xF00 ≤ n ∧ n < 0xF30 then BitVec.ofNat 64 (Config.coefficient ((n - 0xF00) / 16) (n % 16))
  else if 0xF30 ≤ n ∧ n < 0xF60 then BitVec.ofNat 64 (Config.staticPower ((n - 0xF30) / 16) (n % 16 / 8) (n % 8))
  else if 0xF60 ≤ n ∧ n < 0xF68 then BitVec.ofNat 64 (Config.efficiency (n - 0xF60))
  else if n < 0x2000 then counterAt s n else 0

/-- COUNTER_SNAPSHOT (R499): a COUNT of 0 leaves the window. -/
def cmdCounterSnapshot : Command := fun s r =>
  let first := leAt r.payload 0 2
  let n := min 512 (leAt r.payload 2 2)
  let snap := (List.range n).foldl (fun (m : List (Nat × BitVec 64)) i => sparseSet 0 m (8 * i) (counterValue s (first + i))) []
  (if n = 0 then s else { s with obs := { s.obs with snapshot := snap } }, done (bytesOfNat 8 (timebase s)))

/-- TRACE_CONFIG (R501, R536). -/
def cmdTraceConfig : Command := fun s r =>
  let pages := leAt r.payload 8 4
  if freePages s false < pages + sealPages s then (s, refuse REFUSE_TRACE 536 0 0)
  else
    let o := { s.obs with mask := BitVec.ofNat 64 (leAt r.payload 0 8), pages := BitVec.ofNat 32 pages, wr := 0, dropped := 0,
                          ring := [], wrapped := 0, wrapAt := none }
    ({ s with obs := o }, done [])

/-! ### The rows -/

def execGroupWrite (rq : MbReq) (s : State) : Host.Outcome State Fault Refusal :=
  .next (mailboxRow 0x0038 cmdGroupWrite (withAction rq 1 0) s)
def execGroupInvalidate (rq : MbReq) (s : State) : Host.Outcome State Fault Refusal :=
  .next (mailboxRow 0x0038 cmdGroupWrite (withAction rq 1 1) s)
def execRouteWrite (rq : MbReq) (s : State) : Host.Outcome State Fault Refusal := .next (mailboxRow 0x0039 cmdRouteWrite rq s)
def execOverrideSet (rq : MbReq) (s : State) : Host.Outcome State Fault Refusal :=
  .next (mailboxRow 0x003A cmdOverride (withAction rq 2 0) s)
def execOverrideRemove (rq : MbReq) (s : State) : Host.Outcome State Fault Refusal :=
  .next (mailboxRow 0x003A cmdOverride (withAction rq 2 1) s)
def execStateRead (rq : MbReq) (s : State) : Host.Outcome State Fault Refusal := .next (mailboxRow 0x0048 cmdStateRead rq s)
def execCounterSnapshot (rq : MbReq) (s : State) : Host.Outcome State Fault Refusal :=
  .next (mailboxRow 0x0049 cmdCounterSnapshot rq s)
def execTraceConfig (rq : MbReq) (s : State) : Host.Outcome State Fault Refusal :=
  .next (mailboxRow 0x004A cmdTraceConfig rq s)

end Sys2Proof.Machine
end

