-- ==== Sys2Proof/Machine/Registers.lean ====
section
/-! DEFINITION. Host writes to BAR0: the mailbox windows, the identity page, the event queue block, the trace view and the MSI-X
table (R391 to R394, R420, R421, R423, R431, R432, R434, R507). -/

namespace Sys2Proof.Machine

/-! ### Mailbox windows (R391 to R393) -/

/-- The command an opcode names (R403). -/
def commandOf (op : Nat) : Command :=
  match op with
  | 0x0001 => cmdIdentify
  | 0x0002 => cmdAttest
  | 0x0003 => cmdLifecycle
  | 0x0004 => cmdFwLoad
  | 0x0005 => cmdConfig
  | 0x0010 => cmdJobSetup
  | 0x0011 => cmdJobAdmit
  | 0x0012 => cmdJobEnd
  | 0x0013 => cmdJobHold
  | 0x0014 => cmdJobResume
  | 0x0015 => cmdJobParam
  | 0x0018 => cmdSealConfig
  | 0x0019 => cmdRestore
  | 0x001A => cmdPullServe
  | 0x0020 => cmdTensorCreate
  | 0x0021 => cmdTensorSet
  | 0x0022 => cmdOptset
  | 0x0023 => cmdPin
  | 0x0028 => cmdWaybillLoad
  | 0x0029 => cmdPlanLoad
  | 0x0030 => cmdStepDispatch
  | 0x0038 => cmdGroupWrite
  | 0x0039 => cmdRouteWrite
  | 0x003A => cmdOverride
  | 0x0040 => cmdOpSet
  | 0x0041 => cmdPowerCap
  | 0x0042 => cmdGate
  | 0x0048 => cmdStateRead
  | 0x0049 => cmdCounterSnapshot
  | 0x004A => cmdTraceConfig
  | _ => fun s _ => (s, status BAD_OPCODE)

/-- GO written to a mailbox that is IDLE or DONE: the command in its window runs (R392, R393). -/
def goCommand (s : State) (m : Nat) : State :=
  let op := (requestOf s m).1.op
  let t := runCommand (commandOf op) (goBusy s m) m
  if op = 3 then afterLifecycle (lifecycleOf s.fuses) t
  else if op = 4 then afterFwLoad (foremanUp s) m t
  else t

/-- A write of bytes at an offset of mailbox m's window: counted while it is BUSY, else stored, or GO (R391 to R393). -/
def writeWindow (s : State) (m off : Nat) (bs : List Byte) : State :=
  let b := boxAt s m
  if b.state = 1 then ignoreWrites s m 1
  else if off < 0xFF0 then setBox s m { b with window := cellsPut b.window off bs }
  else if off = 0xFF0 ∧ (natOfBytes bs).testBit 0 then goCommand s m
  else s

/-! ### Other registers, 32 bits at a time -/

/-- The low (0) or high (1) half of a 64-bit register replaced. -/
def putHalf (x : BitVec 64) (half v : Nat) : BitVec 64 := setFld x (32 * half + 31) (32 * half) v

/-- DMA_BASE changes only while there is no job (R434). -/
def writeDmaBase (s : State) (half v : Nat) : State :=
  if jobExists s then s else { s with ident := { s.ident with dmaBase := putHalf s.ident.dmaBase half v } }

/-- A word of the identity page (R432). -/
def writeIdentity (s : State) (off v : Nat) : State :=
  if off = 56 then clearNmi s v
  else if off = 64 then writeDmaBase s 0 v
  else if off = 68 then writeDmaBase s 1 v
  else s

/-- A word of the event queue block (R420, R421). -/
def writeEventQueue (s : State) (off v : Nat) : State :=
  let q := s.evq
  if off < 8 then (if q.enable then s else { s with evq := { q with base := putHalf q.base (off / 4) v } })
  else if off = 8 then { s with evq := writeEnable q v }
  else if off = 16 then writeHead s (BitVec.ofNat 32 v)
  else if 24 ≤ off ∧ off < 40 then
    let i := off - 24
    { s with evq := { q with vecmap := setFld q.vecmap (8 * i + 31) (8 * i) (v &&& 0x3F3F3F3F) } }
  else s

/-- A word of the MSI-X table; a vector unmasked while it is pending is signalled (R423, log 11). -/
def writeMsix (s : State) (off v : Nat) : State :=
  let n := off / 16
  let i := off % 16
  let e := setFld (msixEntry s n) (8 * i + 31) (8 * i) v
  let s := { s with pcie := { s.pcie with msix := sparseSet msixDefault s.pcie.msix n e } }
  if !bitOf e 96 && bitOf s.pcie.pba n && canMaster s then
    sendVector { s with pcie := { s.pcie with pba := setFld s.pcie.pba n n 0 } } n
  else s

/-- RD_BASE (R507). -/
def writeRdBase (s : State) (half v : Nat) : State :=
  { s with obs := { s.obs with rdBase := putHalf s.obs.rdBase half v } }

/-- One aligned 32-bit write outside the mailboxes; every other offset ignores it (R431). -/
def writeWord32 (s : State) (off v : Nat) : State :=
  if off < 0x1000 then writeIdentity s off v
  else if 0x8000 ≤ off ∧ off < 0x8040 then writeEventQueue s (off - 0x8000) v
  else if off = 0xD008 then writeRdBase s 0 v
  else if off = 0xD00C then writeRdBase s 1 v
  else if 0xE000 ≤ off ∧ off < 0xE400 then writeMsix s (off - 0xE000) v
  else s

/-- REGISTER_WRITE (R431): an aligned 32-bit or 64-bit write of BAR0; any other is ignored. -/
def execRegisterWrite (offset : BitVec 16) (wide : Bool) (value : BitVec 64) (s : State) : Host.Outcome State Fault Refusal :=
  let off := offset.toNat
  let n := if wide then 8 else 4
  .next (
    if !hostReaches s || off % n != 0 then s
    else if 0x1000 ≤ off ∧ off < 0x5000 then
      writeWindow s ((off - 0x1000) / 0x1000) (off % 0x1000) (bytesOfNat n value.toNat)
    else
      let s := writeWord32 s off (value.toNat % 2 ^ 32)
      if wide then writeWord32 s (off + 4) (value.toNat / 2 ^ 32) else s)

end Sys2Proof.Machine
end

