-- ==== Sys2Proof/Machine/StepRows.lean ====
section
/-! DEFINITION. The rows that begin a step and its operations, begin a seal, scrub a word, and declare a peer lost
(R108, R120, R128, R162, R163, R183, R217, R250, R276, R357, R373, R378, R412, R418). -/

namespace Sys2Proof.Machine

/-! ### STEP_BEGIN (R162, R276, R418) -/

/-- Tensors whose calibration begins with the step: a scale, no pin, an empty history (R162). -/
def calibrationStarts (s : State) : List Nat :=
  (s.job.tensors.filter fun e =>
    (stepFmt s e.1).scaled && !thPinned e.2.hist && thCount e.2.hist == 0 && thCal e.2.hist == 0).map (·.1)

/-- Tensors enter calibration, with one event for them all (R162, R164). -/
def startCalibrations (s : State) : State :=
  let hs := calibrationStarts s
  let s := hs.foldl beginCalibration s
  if hs.isEmpty then s else raise s { code := 0x2005, src := 1, a0 := hs.length }

/-- The STEP of every descriptor against the step's number: one that differs makes the contribution false, raises EV_STEP_SKEW for
the first, and HOLD follows the boundary (R276). -/
def checkSkew (s : State) : State :=
  match s.step.upd.zipIdx.find? fun d => udStep d.1 != s.step.number.toNat with
  | some (d, i) =>
    let s := { addCause s 8 with job := { s.job with dueHold := 4 } }
    raise s { code := 0x1003, src := 2, argS := i, a0 := udStep d % 2 ^ 32, a1 := s.step.number.toNat % 2 ^ 32 }
  | none => s

/-- The engines as a step begins: nothing runs and every loom is without a unit. What the spec empties nowhere at a step's beginning
stays: the elements in the stream buffers (R218), the persistent waybills (R216), and the long accumulators of the vector units, which
keep their value over lread and over steps until a reset, since the spec nowhere says when they are cleared (DESIGN CHOICE, log 80). -/
def stepEngines (s : State) : EngSt :=
  { EngSt.none with lacc := s.eng.lacc, bufs := s.eng.bufs, kept := s.eng.kept, missing := (List.range 512).filter (loomOn s) }

/-- A step begins (R418). -/
def beginStep (s : State) (d : Dispatch) (rest : List Dispatch) : State :=
  let st := { StepSt.none with active := true, number := d.step, plan := d.plan, cursor := d.cursor, upd := d.upd,
                               start := timebase s, forced := s.pow.forced }
  let job := { s.job with dispatches := rest, lastBegun := d.step }
  let fab := { s.fab with gather := [], held := [], stale := [], votes := [], merges := [] }
  let s := { s with step := st, job := job, fab := fab, eng := stepEngines s, assay := AssaySt.none,
                    ident := { s.ident with jobStep := d.step }, sealer := { s.sealer with fullRaised := false },
                    mem := { s.mem with ueRaised := [] },
                    pow := { s.pow with pauseRaised := false, energyAtBegin := (counterAt s 0xEB0).toNat } }
  let s := trace (settlePoint s true) 2 0 d.plan (genOf s d.step.toNat).toNat 0
  let s := startCalibrations s
  let s := { s with step := { s.step with calib := s.job.tensors.any fun e => inCalibration s e.1 } }
  tryMillPhase (checkSkew s)

/-- STEP_BEGIN (R418): the previous barrier is complete and a dispatch waits. -/
def execStepBegin (s : State) : Host.Outcome State Fault Refusal :=
  .next (
    if stopped s || s.job.state != 2 || s.step.active || s.step.barrier != 0 then s
    else
      match s.job.dispatches with
      | d :: rest => beginStep s d rest
      | [] => s)

/-! ### The first pass of calibration (R163) -/

/-- A bias element without recording anything. -/
def peekBias (s : State) (e : Entry) (t v c : Nat) : Option Num :=
  if !eBias e then none
  else (tensorOf s (eTb e)).map fun x =>
    let f := fmtOf (tdFmt x.desc)
    let w := f.width / 8
    decode f (opFlush e) (natOfBytes ((loadSpan s (tdAddr x.desc + featureOf e t v c * w) w).2.map (·.1)))

/-- The y of element (v, c) of output tile t of an operation, from its operands as they stand; none where it is not finite or
cannot be read. -/
def passLoom (s : State) (op t v c : Nat) : Option Dy :=
  let e := stepOp s op
  let lane := (listedAt s op e t c).map fun _ => tileCol e t + c
  let e' := if lane.isSome then laneEntry e else unitEntry s ⟨op, t, 0, 0⟩
  let pairs := (List.range (ktCount e')).map fun k => freshPairs s e' op lane (tileCol e t + c) (tileVec e t + v) k
  if pairs.all (·.isSome) then
    let a := columnAcc e' (opFlush e) 0 fun k => (pairs.getD k none).getD []
    if a.poison || elemClass a != .finite then none
    else
      let x := numOf (dyMul (elemValue (opLmode e') a).1 (elemScale s op t c))
      let y := match peekBias s e t v c with | some b => numAdd x b | none => x
      let z := if eClip e && y.cls != .nan then numClip y (decode .bf16 false (eClipLo e)) (decode .bf16 false (eClipHi e)) else y
      if z.cls == .finite then some z.v else none
  else none

/-- A loom operand of the entry comes from a buffer. -/
def bufferFed (s : State) (e : Entry) : Bool :=
  [0, 1].any fun k => !(wDrains (imageAt s (guildOf (eL0 e)) (armWaybill (eArm e k)))).isEmpty

/-- The largest magnitude that an entry of the step gives a tensor: a loom operation's elements, or the values a convert reads; a free
value where a stream comes from a buffer. A collective's sums are not known before its contributions arrive: it makes its own first
pass over them. -/
def passAmax (s : State) (h op : Nat) : Dy :=
  let e := stepOp s op
  let big := fun (xs : List (Option Dy)) => xs.foldl (fun (m : Dy) x => match x with | some v => dyMax m (dyAbs v) | none => m) dyZero
  if eKind e = 0 ∧ eTo e = h then
    if bufferFed s e then bf16Val (Config.bufferAmax s.step.number.toNat h op % 0x7F80)
    else big ((List.range (tileCount e)).flatMap fun t => (tileElems e t).map fun p => passLoom s op t p.1 p.2)
  else if eKind e = 1 ∧ vTout e = h ∧ vVop e = 7 then
    let f := fmtOf (vFmtIn e)
    big ((List.range (vCount e)).map fun i =>
      let b := vecBit (vX e) f.width i
      let x := peekPlace s b f.width
      let v := vecNum s e 0 x.code
      if v.cls == .finite && !x.poison then some v.v else none)
  else dyZero

/-- The scale of a calibrating tensor found by a first pass over the step's loom and vector operations as their operands stand when the
first of them starts (R163; log 79). -/
def calibrate (s : State) (h : Nat) : State :=
  if !inCalibration s h || (mapFind s.assay.calib h).isSome then s
  else calibrateTo s h (amaxCode ((List.range (stepEntries s).length).foldl (fun (m : Dy) i => dyMax m (passAmax s h i)) dyZero))

/-! ### Admission of an operation to the step (R108, R120, R128, R217) -/

/-- The scale of an operand or result in a format: that of its tensor, 1.0 where the format has no scale. -/
def scaleIn (s : State) (fmt h : Nat) : Nat := if (fmtOf fmt).scaled then stepScale s h else 0x3F80

/-- Channels that the bench columns reserved for a layer hold, 16 in each (R119, R121). -/
def benchChannels (s : State) (l : Nat) : Nat := 16 * mapGet s.job.benches l 0

/-- Listed outlier channels of an operation below N, in increasing order and once each, no more than the reserved bench columns hold;
none on a rung (R120, R121). -/
def outliersFor (s : State) (e : Entry) : List Nat :=
  match (if eOutlier e then layerOf s (eLayer e) else none) with
  | some l => if fld l.layer 9 8 = 0 then (sortNat ((l.outliers.map BitVec.toNat).eraseDups.filter fun c => decide (c < eN e))).take (benchChannels s (eLayer e)) else []
  | none => []

/-- Listed entries at or beyond N, which are ignored and counted (R121). -/
def outliersBeyond (s : State) (e : Entry) : Nat :=
  match (if eOutlier e then layerOf s (eLayer e) else none) with
  | some l => if fld l.layer 9 8 = 0 then (l.outliers.filter fun c => c != 0xFFFFFFFF && decide (eN e ≤ c.toNat)).length else 0
  | none => 0

/-- Slots of the operation's feeders that keep a persistent waybill: key 4 × carter + slot (R216). -/
def persistSlots (s : State) (e : Entry) : List Nat :=
  if eKind e ≠ 0 then []
  else (List.range 4).flatMap fun k =>
    if wPersist (mapGet s.job.waybills (armWaybill (eArm e k)) []) then
      (if k = 3 then [feederOf (eL0 e)] else opFeeders e).map fun c => 4 * c + k
    else []

/-- A slot holds its running operation and 2 pending re-arms (R217). -/
def slotsFree (s : State) (e : Entry) : Bool := (persistSlots s e).all fun k => decide ((mapGet s.eng.armed k []).length < 3)

/-- Every stage queue slot that the operation reads is filled (R341). -/
def slotsFilled (s : State) (e : Entry) : Bool :=
  s.fab.queues.all fun q =>
    let r := q.2.record
    !(sqValid r && sqConsumes r) || (List.range (sqSlots r)).all fun j =>
      let n := q.2.released + j
      !readsSlot e r (n % sqSlots r) || slotFilled q.2 n

/-- The operation's WAIT operations have completed. -/
def waitsDone (s : State) (e : Entry) : Bool := (eWaits e).all fun w => mapGet s.step.ops w 0 == 2

/-- An operation of the step may start now (R217, R339, R341, R412, R457). -/
def opReady (s : State) (op : Nat) : Bool :=
  let e := planEntry s s.step.plan op
  enginesRun s && decide (op < (stepEntries s).length) && mapGet s.step.ops op 0 == 0 && waitsDone s e && s.fab.stale.isEmpty &&
    slotsFree s e && slotsFilled s e && !(eKind e == 1 && paused s)

/-! ### Flushed inputs (R41, R130) -/

/-- Subnormal codes among the distinct elements of memory that n positions of a run read. -/
def runFlushes (s : State) (r : Run) (n : Nat) (f : Fmt) : Nat :=
  if !f.isFloat then 0
  else
    let bits := ((List.range n).filterMap fun p => match placeAt (gatherRun s r p).2 p with | .memory b _ _ => some b | _ => none).eraseDups
    (bits.filter fun b => let x := peekPlace s b f.width; !x.poison && readFlushes f x.code).length

/-- The same of slot k of a loom operation. -/
def slotFlushes (s : State) (op : Nat) (e : Entry) (k n : Nat) (f : Fmt) : Nat :=
  runFlushes s (newRun s op (guildOf (eL0 e)) none (eArm e k) []) n f

/-- The same of the outlier lane's parameters. -/
def laneFlushes (s : State) (op : Nat) (e : Entry) : Nat :=
  ((opOutliers s op).map fun ch =>
    let (a, f) := laneSource s e
    runFlushes s { Run.start op none [] 0 [] with direct := some (a + 2 * (ch * eK e), f) } (eK e) .bf16).sum

/-- Flush events of a loom operation's operands, counted as it starts. An element that comes from a buffer is held by no tensor, and
R130 does not gather its flush. -/
def countFlushes (s : State) (op : Nat) (e : Entry) : State :=
  if eNummode e ≠ 0 then s
  else
    let s := flushInput s (eTx e) (slotFlushes s op e 0 (eM e * eK e) (fmtOf (eFmtX e)))
    let s := flushInput s (eTs e) (slotFlushes s op e 1 (eN e * eK e) (fmtOf (eFmtS e)))
    flushInput s (Config.outlierSource (eTs e)) (laneFlushes s op e)

/-! ### OPERATION_START (R183, R202, R412) -/

/-- Positions of slot 2 for a tile, in vector then column order (R115, R201). -/
def tileRanges (e : Entry) (t : Nat) : List (Nat × Nat) :=
  (List.range (tileVecsOf e t)).map fun v =>
    let p := (tileVec e t + v) * eN e + tileCol e t
    (p, p + tileCols e t)

/-- The output run of a home loom: its tiles in increasing order, the writes of different tiles never merging (R212). -/
def outputRun (s : State) (op : Nat) (e : Entry) (i : Nat) : Run :=
  let ts := homeTiles e i
  let sizes := ts.map fun t => tileVecsOf e t * tileCols e t
  { newRun s op (guildOf (eL0 e + i)) none (eArm e 2) (ts.flatMap (tileRanges e)) with
    cuts := (List.range sizes.length).map fun k => (sizes.take k).sum }

/-- A loom operation's units go to the sub-queues of their home workshops, its output and bias runs to its home looms' feeders and its
class 3 run to the first loom's. One with M = 0 or N = 0 arms nothing and completes at once (R110, R228). -/
def startLoom (s : State) (op : Nat) (e : Entry) : State :=
  if eM e = 0 ∨ eN e = 0 then tryCompleteLoom s op
  else
    let s := countFlushes s op e
    let s := (opUnits s op).foldl (fun s u => let w := workshopOf (unitHome s u); setSubq s w (subqAt s w ++ [u])) s
    let s := if armWaybill (eArm e 3) = 0xFFFF then s
      else
        let r := newRun s op (guildOf (eL0 e)) none (eArm e 3) []
        addRun s (feederOf (eL0 e)) 3 { r with ranges := [(0, waybillLen r.img)] }
    let s := (List.range (eNloom e)).foldl (fun s i =>
      let c := feederOf (eL0 e + i)
      let s := if armWaybill (eArm e 2) = 0xFFFF then s else addRun s c 2 (outputRun s op e i)
      match biasRun s op e i with | some r => addRun s c 3 r | none => s) s
    let s := if eFmtO e = 9 then
        let r := opRun s op
        { s with job := { s.job with inherited := mapSet s.job.inherited (eTo e) (r.scaleS, r.scaleX) } }
      else s
    tryCompleteLoom s op

/-- The operation's record as it is admitted: steered formats, scales and listed channels (R108, R120, R128). -/
def opRecord (s : State) (e : Entry) : OpRun :=
  ⟨e, scaleIn s (eFmtS e) (eTs e), scaleIn s (eFmtX e) (eTx e), scaleIn s (eFmtO e) (eTo e), outliersFor s e, 0, [], 0⟩

/-- A tag-only gather moves no data only where the Retained policy still holds the forward gather; else it is a full gather whose tags
are checked (R12, R338). -/
def gatherPolicy (s : State) (e : Entry) : Entry :=
  let d := eColl e
  if eKind e = 2 && cColl d == 1 && cTagonly d && !(s.job.gather == 1 && s.fab.held.contains (cGslot d)) then
    setFld (setFld e 151 151 0) 150 150 1
  else e

/-- The tensor an operation writes, 0 for a collective. -/
def outputTensor (e : Entry) : Nat := match eKind e with | 0 => eTo e | 1 => vTout e | _ => 0

/-- The persistent waybills of an operation stay in their slots with its base slots: the first arm, or a re-arm (R216, R217). -/
def keepArms (s : State) (op : Nat) (e : Entry) : State :=
  let ks := persistSlots s e
  let eng := { s.eng with armed := ks.foldl (fun (m : List (Nat × List Nat)) k => mapUpd m k [] (· ++ [op])) s.eng.armed
                          kept := ks.foldl (fun (m : List (Nat × BitVec 320)) k => mapSet m k (eArm e (k % 4))) s.eng.kept }
  { s with eng := eng }

/-- An operation starts. -/
def startOp (s : State) (op : Nat) : State :=
  let e := gatherPolicy s (steerEntry s (steeredFmt s) (planEntry s s.step.plan op))
  let s := setOpRun s op (opRecord s e)
  let s := calibrate s (outputTensor e)
  let s := setOpRun s op (opRecord s e)
  let s := keepArms s op e
  let s := { s with eng := { s.eng with order := s.eng.order ++ [op] }, step := { s.step with ops := mapSet s.step.ops op 1 } }
  let s := if eKind e = 0 then addCounter s 0xEC8 (outliersBeyond s e) else s
  let s := trace s 3 0 op s.step.plan 0
  match eKind e with
  | 0 => startLoom s op e
  | 1 => tryCompleteVector s op
  | _ => s

/-- OPERATION_START (R412). -/
def execOperationStart (op : Nat) (s : State) : Host.Outcome State Fault Refusal :=
  .next (if opReady s op then startOp s op else s)

/-! ### SEAL_BEGIN (R357) -/

/-- The seal of the step in progress: pages protected, the record built, the dirty set and the record shipped. -/
def beginSeal (s : State) : State :=
  let t := s.step.number.toNat
  let gen := (genOf s t).toNat
  let s := trace s 2 3 s.step.plan gen 0
  let s := protectPages s gen
  let rec_ := buildRecord s t s.step.cursor.toNat
  let s := keepRecord (keepHead s t gen s.step.cursor.toNat) gen rec_
  let pages := (s.sealer.dirtyPages.foldl (fun (m : List (Nat × Unit)) v => mapSet m v ()) []).map (·.1)
  let rows := s.sealer.dirtyRows
  let s := { s with sealer := { s.sealer with phase := 1, gen := BitVec.ofNat 32 gen, dirtyPages := [], dirtyRows := [] } }
  match shipGeneration s gen pages rows rec_ with
  | (s, some v) => sealFailed s gen v
  | (s, none) => s

/-- SEAL_BEGIN (R357): the boundary work is complete. -/
def execSealBegin (s : State) : Host.Outcome State Fault Refusal :=
  .next (if !stopped s && s.step.active && s.step.phase == 3 && s.sealer.phase == 0 then beginSeal s else s)

/-! ### SCRUB_WORD (R250, R378) -/

/-- A memory's number in `scrubPos`, its first physical byte and its words. -/
def scrubUnit (s : State) (u : MemUnit) : Nat × Nat × Nat :=
  match u with
  | .lpddr ch => (ch.val, ch.val * 2 ^ 34, framesPerHome s * 2 ^ 15)
  | .scratchpad w => (256 + w.val, scratchBase + w.val * 0x400000, 0x40000)
  | .guildStore g => (512 + g.val, storeOf g.val, 0x200000)

/-- The protected page whose frame holds a physical byte of LPDDR6. -/
def pageHolding (s : State) (p : Nat) : Option Nat :=
  ((protectedPages s).map (·.1)).find? fun v =>
    let e := peekEntry s (v * 2 ^ 21)
    pmValid e && (pageOffset (pmHome e) (pmFrame e) p).isSome

/-- A damaged page outside the dirty set waits for its repair (R378). -/
def noteRepair (s : State) (p : Nat) : State :=
  match pageHolding s p with
  | some v =>
    if s.sealer.dirtyPages.contains v || s.sealer.repair.contains v then s
    else { s with sealer := { s.sealer with repair := s.sealer.repair ++ [v] } }
  | none => s

/-- One word scrubbed: corrected, written poisoned with its data and tag kept, or left (R246, R249, R250). -/
def scrubAt (s : State) (p : Nat) : State :=
  let r := readWord (rawData s p) (rawMeta s p)
  match r.cls with
  | .clean => s
  | .poisoned => s
  | .corrected => logMem (putWord s p r.fixData r.fixMeta) p 1 false r
  | .uncorrectable => noteRepair (logMem (writeWord s p (rawData s p) r.tag true) p 1 true r) p

/-- SCRUB_WORD (R250): a unit's scrubber reads its next word, unless a wipe runs. -/
def execScrubWord (unit : MemUnit) (s : State) : Host.Outcome State Fault Refusal :=
  .next (
    if stopped s || s.mem.wiping then s
    else
      let (key, base, words) := scrubUnit s unit
      let i := mapGet s.mem.scrubPos key 0 % words
      let s := { s with mem := { s.mem with scrubPos := mapSet s.mem.scrubPos key ((i + 1) % words) } }
      scrubAt s (base + 16 * i))

/-! ### LOST_TIMEOUT (R373) -/

/-- Members of a group whose whole message for a phase has not arrived. -/
def missing (s : State) (g phase op : Nat) (members : List Nat) : List Nat :=
  members.filter fun a => (wholeMsg s a g phase op).isNone

/-- Members that a collective under way awaits. -/
def collPeers (s : State) (op : Nat) : List Nat :=
  let d := eColl (stepOp s op)
  let stage := collStage s op
  if cColl d = 5 then (match mapFind s.fab.queues (cQueue d) with | some q => if stage = 1 then [sqPeer q.record] else [] | none => [])
  else match groupOf s (cGroup d) with
    | some r =>
      let from_ := if cTagonly d || cColl d == 0 || cColl d == 2 then otherMembers r else (sources d r).map (memberAddr r)
      if stage = 1 then missing s (cGroup d) 0 op from_
      else if stage = 2 then missing s (cGroup d) 1 op from_
      else []
    | none => []

/-- Members that an all-reduce of units awaits. -/
def xchgPeers (s : State) (x : Xchg) : List Nat :=
  match (if x.result.isSome then none else groupOf s x.group) with
  | some r => missing s x.group (if x.own.isNone then x.phase else x.phase + 1) x.op (otherMembers r)
  | none => []

/-- Members whose vote is awaited. -/
def votePeers (s : State) : List Nat :=
  match (if s.step.active && s.step.phase == 0 && (mapFind s.fab.votes (ownAddr s)).isSome then voteOp s else none) with
  | some i =>
    match groupOf s (cGroup (eColl (stepOp s i))) with
    | some r => (otherMembers r).filter fun a => (mapFind s.fab.votes a).isNone
    | none => []
  | none => []

/-- Producers of the queues whose next slot an operation awaits. -/
def queuePeers (s : State) : List Nat := if slotAwaited s then (s.fab.queues.filter fun q => sqConsumes q.2.record).map fun q => sqPeer q.2.record else []

/-- Every module that the module waits on (R373). -/
def awaitedPeers (s : State) : List Nat :=
  barrierPeers s ++ (s.eng.colls.map (·.1)).flatMap (collPeers s) ++ s.fab.merges.flatMap (xchgPeers s) ++ votePeers s ++ queuePeers s

/-- The module's own latest barrier frame already names m as lost: it is declared once. -/
def lostDeclared (s : State) (m : Nat) : Bool :=
  match s.fab.ownBarrier with
  | some (_, tag) => bitOf tag 2 && fld tag 31 16 == m
  | none => false

/-- LOST_TIMEOUT passes with no frame of a module that is waited on, or with no route to it: it is lost. A pull that its buddy
does not answer ends refused, its target being out of reach (R373, R379, R382). -/
def declareLost (s : State) (m : Nat) : State :=
  let wait := sdLostTimeout s.job.sealDesc * 1000000
  let noRoute := match mapFind s.fab.noRoute m with | some (_, some t) => some t | _ => none
  if lostDeclared s m || (!(awaitedPeers s).contains m && noRoute.isNone) then s
  else
    let s := advanceTo s (max (silentSince s m) (noRoute.getD 0) + wait)
    match s.restore with
    | some r => if r.pull && m == buddyOf s then refuseRestore s r (refuse REFUSE_RESTORE_TARGET 382 1 0) else peerLost s m
    | none => peerLost s m

/-- LOST_TIMEOUT (R373). -/
def execLostTimeout (peer : BitVec 16) (s : State) : Host.Outcome State Fault Refusal :=
  .next (if stopped s || !jobExists s then s else declareLost s peer.toNat)

end Sys2Proof.Machine
end

