-- ==== Sys2Proof/Machine/Dispatch.lean ====
section
/-! DEFINITION. The meaning of each command: one arm for each row of spec/opcode_table.json. -/

namespace Sys2Proof.Machine

/-- A command's effect on everything but the queue. -/
def exec (i : Instr) (s : State) : Host.Outcome State Fault Refusal :=
  match i with
  | .identify rq => Sys2Proof.Machine.execIdentify rq s
  | .attest rq => Sys2Proof.Machine.execAttest rq s
  | .lifecycle rq => Sys2Proof.Machine.execLifecycle rq s
  | .fwLoad rq => Sys2Proof.Machine.execFwLoad rq s
  | .config rq => Sys2Proof.Machine.execConfig rq s
  | .jobSetup rq => Sys2Proof.Machine.execJobSetup rq s
  | .jobAdmit rq => Sys2Proof.Machine.execJobAdmit rq s
  | .jobEnd rq => Sys2Proof.Machine.execJobEnd rq s
  | .jobHold rq => Sys2Proof.Machine.execJobHold rq s
  | .jobResume rq => Sys2Proof.Machine.execJobResume rq s
  | .jobParam rq => Sys2Proof.Machine.execJobParam rq s
  | .sealConfig rq => Sys2Proof.Machine.execSealConfig rq s
  | .restoreLocal rq => Sys2Proof.Machine.execRestoreLocal rq s
  | .restorePull rq => Sys2Proof.Machine.execRestorePull rq s
  | .pullServe rq => Sys2Proof.Machine.execPullServe rq s
  | .tensorCreate rq => Sys2Proof.Machine.execTensorCreate rq s
  | .tensorSetFreeze rq => Sys2Proof.Machine.execTensorSetFreeze rq s
  | .tensorSetUnfreeze rq => Sys2Proof.Machine.execTensorSetUnfreeze rq s
  | .tensorSetPinScale rq => Sys2Proof.Machine.execTensorSetPinScale rq s
  | .tensorSetUnpinScale rq => Sys2Proof.Machine.execTensorSetUnpinScale rq s
  | .tensorSetClearHistory rq => Sys2Proof.Machine.execTensorSetClearHistory rq s
  | .tensorSetS rq => Sys2Proof.Machine.execTensorSetS rq s
  | .optsetWrite rq => Sys2Proof.Machine.execOptsetWrite rq s
  | .pin rq => Sys2Proof.Machine.execPin rq s
  | .waybillLoad rq => Sys2Proof.Machine.execWaybillLoad rq s
  | .planLoad rq => Sys2Proof.Machine.execPlanLoad rq s
  | .stepDispatch rq => Sys2Proof.Machine.execStepDispatch rq s
  | .groupWrite rq => Sys2Proof.Machine.execGroupWrite rq s
  | .groupInvalidate rq => Sys2Proof.Machine.execGroupInvalidate rq s
  | .routeWrite rq => Sys2Proof.Machine.execRouteWrite rq s
  | .overrideSet rq => Sys2Proof.Machine.execOverrideSet rq s
  | .overrideRemove rq => Sys2Proof.Machine.execOverrideRemove rq s
  | .opSet rq => Sys2Proof.Machine.execOpSet rq s
  | .powerCap rq => Sys2Proof.Machine.execPowerCap rq s
  | .gateOff rq => Sys2Proof.Machine.execGateOff rq s
  | .gateOn rq => Sys2Proof.Machine.execGateOn rq s
  | .stateRead rq => Sys2Proof.Machine.execStateRead rq s
  | .counterSnapshot rq => Sys2Proof.Machine.execCounterSnapshot rq s
  | .traceConfig rq => Sys2Proof.Machine.execTraceConfig rq s
  | .registerWrite offset wide value => Sys2Proof.Machine.execRegisterWrite offset wide value s
  | .eqEnableWrite value => Sys2Proof.Machine.execEqEnableWrite value s
  | .eqHeadWrite value => Sys2Proof.Machine.execEqHeadWrite value s
  | .timebaseLowRead => Sys2Proof.Machine.execTimebaseLowRead s
  | .nmiClockClear value => Sys2Proof.Machine.execNmiClockClear value s
  | .traceSlotRead slot => Sys2Proof.Machine.execTraceSlotRead slot s
  | .bar2Read addr n => Sys2Proof.Machine.execBar2Read addr n s
  | .bar2Write addr bytes => Sys2Proof.Machine.execBar2Write addr bytes s
  | .smbusBlockRead => Sys2Proof.Machine.execSmbusBlockRead s
  | .alertResponseAddress => Sys2Proof.Machine.execAlertResponseAddress s
  | .bscanInstructionLoad ins => Sys2Proof.Machine.execBscanInstructionLoad ins s
  | .powerOn => Sys2Proof.Machine.execPowerOn s
  | .pwrGoodDeassert => Sys2Proof.Machine.execPwrGoodDeassert s
  | .perstNAssert => Sys2Proof.Machine.execPerstNAssert s
  | .perstNDeassert => Sys2Proof.Machine.execPerstNDeassert s
  | .modResetNAssert => Sys2Proof.Machine.execModResetNAssert s
  | .modResetNDeassert => Sys2Proof.Machine.execModResetNDeassert s
  | .hotReset => Sys2Proof.Machine.execHotReset s
  | .functionLevelReset => Sys2Proof.Machine.execFunctionLevelReset s
  | .foremanWatchdog => Sys2Proof.Machine.execForemanWatchdog s
  | .vauxUp straps vin => Sys2Proof.Machine.execVauxUp straps vin s
  | .vinOutOfRange vin => Sys2Proof.Machine.execVinOutOfRange vin s
  | .railFault => Sys2Proof.Machine.execRailFault s
  | .thermTrip reading => Sys2Proof.Machine.execThermTrip reading s
  | .pcieLinkDown => Sys2Proof.Machine.execPcieLinkDown s
  | .d3hotEntry => Sys2Proof.Machine.execD3hotEntry s
  | .d0Return => Sys2Proof.Machine.execD0Return s
  | .clockMonitorWindow edges => Sys2Proof.Machine.execClockMonitorWindow edges s
  | .crystalSilence => Sys2Proof.Machine.execCrystalSilence s
  | .crystalTimeout => Sys2Proof.Machine.execCrystalTimeout s
  | .lpddr6TrainingComplete failed => Sys2Proof.Machine.execLpddr6TrainingComplete failed s
  | .wipeComplete => Sys2Proof.Machine.execWipeComplete s
  | .foremanStart => Sys2Proof.Machine.execForemanStart s
  | .portTrainingComplete port => Sys2Proof.Machine.execPortTrainingComplete port s
  | .pcsAlignmentLoss port => Sys2Proof.Machine.execPcsAlignmentLoss port s
  | .replayLimit port => Sys2Proof.Machine.execReplayLimit port s
  | .frameSend index => Sys2Proof.Machine.execFrameSend index s
  | .creditFrameTimer port => Sys2Proof.Machine.execCreditFrameTimer port s
  | .linkFrame port f => Sys2Proof.Machine.execLinkFrame port f s
  | .collFrame port f => Sys2Proof.Machine.execCollFrame port f s
  | .stageQueueDataFrame port f => Sys2Proof.Machine.execStageQueueDataFrame port f s
  | .creditReturn port f => Sys2Proof.Machine.execCreditReturn port f s
  | .voteFrame port f => Sys2Proof.Machine.execVoteFrame port f s
  | .tagOnlyFrame port f => Sys2Proof.Machine.execTagOnlyFrame port f s
  | .barrierFrame port f => Sys2Proof.Machine.execBarrierFrame port f s
  | .barrierResend => Sys2Proof.Machine.execBarrierResend s
  | .sealPageFrame port f => Sys2Proof.Machine.execSealPageFrame port f s
  | .sealJournalFrame port f => Sys2Proof.Machine.execSealJournalFrame port f s
  | .sealRecordFrame port f => Sys2Proof.Machine.execSealRecordFrame port f s
  | .sealMarkerFrame port f => Sys2Proof.Machine.execSealMarkerFrame port f s
  | .sealAckFrame port f => Sys2Proof.Machine.execSealAckFrame port f s
  | .sealSecuredFrame port f => Sys2Proof.Machine.execSealSecuredFrame port f s
  | .sealCommitFrame port f => Sys2Proof.Machine.execSealCommitFrame port f s
  | .sealDiscardFrame port f => Sys2Proof.Machine.execSealDiscardFrame port f s
  | .sealPullFrame port f => Sys2Proof.Machine.execSealPullFrame port f s
  | .sealPulledFrame port f => Sys2Proof.Machine.execSealPulledFrame port f s
  | .sealReserveFrame port f => Sys2Proof.Machine.execSealReserveFrame port f s
  | .noRouteTimeout dest => Sys2Proof.Machine.execNoRouteTimeout dest s
  | .lostTimeout peer => Sys2Proof.Machine.execLostTimeout peer s
  | .hostTimeout => Sys2Proof.Machine.execHostTimeout s
  | .collectiveStart op => Sys2Proof.Machine.execCollectiveStart op s
  | .collectiveComplete op => Sys2Proof.Machine.execCollectiveComplete op s
  | .stageQueueSend op => Sys2Proof.Machine.execStageQueueSend op s
  | .stepBegin => Sys2Proof.Machine.execStepBegin s
  | .operationStart op => Sys2Proof.Machine.execOperationStart op s
  | .loomTakeUnit loom => Sys2Proof.Machine.execLoomTakeUnit loom s
  | .loadWavefront loom => Sys2Proof.Machine.execLoadWavefront loom s
  | .shadowSwap loom => Sys2Proof.Machine.execShadowSwap loom s
  | .cellHandshake loom row col => Sys2Proof.Machine.execCellHandshake loom row col s
  | .partialArrival loom => Sys2Proof.Machine.execPartialArrival loom s
  | .reclaimWindowExpiry loom => Sys2Proof.Machine.execReclaimWindowExpiry loom s
  | .outputStageConvert loom => Sys2Proof.Machine.execOutputStageConvert loom s
  | .vectorElement workshop lane => Sys2Proof.Machine.execVectorElement workshop lane s
  | .transferIssue carter slot => Sys2Proof.Machine.execTransferIssue carter slot s
  | .transferComplete carter index => Sys2Proof.Machine.execTransferComplete carter index s
  | .streamResume carter slot => Sys2Proof.Machine.execStreamResume carter slot s
  | .circularWaitDetect => Sys2Proof.Machine.execCircularWaitDetect s
  | .wpPageCopy page => Sys2Proof.Machine.execWpPageCopy page s
  | .millPrologue guild => Sys2Proof.Machine.execMillPrologue guild s
  | .millRecord mill => Sys2Proof.Machine.execMillRecord mill s
  | .boundaryWork => Sys2Proof.Machine.execBoundaryWork s
  | .sealBegin => Sys2Proof.Machine.execSealBegin s
  | .scrubWord unit => Sys2Proof.Machine.execScrubWord unit s
  | .reconciliationWindow measuredMicroJ => Sys2Proof.Machine.execReconciliationWindow measuredMicroJ s
  | .powerWindow watts => Sys2Proof.Machine.execPowerWindow watts s
  | .vcoreRampComplete => Sys2Proof.Machine.execVcoreRampComplete s
  | .thermalSample readings => Sys2Proof.Machine.execThermalSample readings s
  | .thermalStepDown => Sys2Proof.Machine.execThermalStepDown s
  | .thermalRelease => Sys2Proof.Machine.execThermalRelease s
  | .gateCloseComplete level index => Sys2Proof.Machine.execGateCloseComplete level index s
  | .nmiDeferredSignal => Sys2Proof.Machine.execNmiDeferredSignal s
  | .vinRemoval => Sys2Proof.Machine.execVinRemoval s
  | .railsOn => Sys2Proof.Machine.execRailsOn s
  | .pcieLinkUp => Sys2Proof.Machine.execPcieLinkUp s
  | .pcieConfigWrite w => Sys2Proof.Machine.execPcieConfigWrite w s

end Sys2Proof.Machine
end

