-- ==== Sys2Proof/Safety.lean ====
section
/-! DEFINITION. What counts as a safe run, and the words in which claims about commands are stated: no command of this block
stops it, the data of State keep their form, a mailbox command is accepted and answered. -/

namespace Sys2Proof.Machine

/-- A memory has the canonical form: addresses rise strictly and no listed byte is the one an unlisted address reads as. -/
def memoryWf (m : List Host.Cell) : Bool := sparseWf 0 m

/-- Mailboxes are listed once each, in rising order, and every window has the canonical form. -/
def windowsWf (l : List (Nat × Mailbox)) : Bool := risingKeys l && l.all fun e => memoryWf e.2.window

/-- Every addressed memory of the state has the canonical form: the module's data and metadata, the host's, the mailbox windows. -/
def Memory.wf (s : State) : Bool :=
  memoryWf s.mem.data && memoryWf s.mem.metadata && memoryWf s.pcie.hostMem && windowsWf s.mbox

/-- A step is safe when it answers a next state. -/
def stepSafe (s : State) : Prop := ∃ t, step s = .next t

/-- Byte of the LPDDR6, scratchpads and guild stores at a physical address. -/
def byteOf (s : State) (p : Nat) : Byte := mapGet s.mem.data p 0

/-- t as it is behind its host interface: mailboxes, counters with the trace, event queue and PCIe side taken from s. -/
def behindHost (s t : State) : State := { t with mbox := s.mbox, obs := s.obs, evq := s.evq, pcie := s.pcie }

/-- The request that a mailbox row makes, as the Foreman copies it at GO (R393). -/
def asReq (op : Nat) (rq : MbReq) : Req :=
  ⟨rq.mailbox.val, op, rq.tag.toNat, rq.length.toNat, rq.notify, rq.payload⟩

/-- A request whose payload is as long as its LENGTH says and fits the window. -/
def wholeReq (rq : MbReq) : Bool := decide (rq.payload.length = rq.length.toNat) && decide (rq.payload.length ≤ 4064)

/-- A mailbox row is accepted: the host reaches the module, the mailbox is not BUSY, and the checks of R396, R534 and R403 pass. -/
def accepted (op : Nat) (rq : MbReq) (s : State) : Bool :=
  wholeReq rq && hostReaches s && (boxAt s rq.mailbox.val).state != 1 &&
    (checkRequest s (asReq op rq) (requestHeader op rq)).isNone && (checkRange (asReq op rq)).isNone &&
    (checkState s (asReq op rq)).isNone

/-- The state once the host has placed its data, written the request into the window and written GO (R392, R393). -/
def loaded (op : Nat) (rq : MbReq) (s : State) : State :=
  let m := rq.mailbox.val
  let s := placeHost s rq.host
  let b := boxAt s m
  let w := cellsPut (cellsPut b.window 0 (bytesOfNat 16 (requestHeader op rq))) 16 (rq.payload.take 4064)
  goBusy (setBox s m { b with window := w }) m

/-- The state in which an accepted command of opcode op is carried out: the request in the window, the mailbox BUSY, the start
traced (R393, R502). -/
def begun (op : Nat) (rq : MbReq) (s : State) : State :=
  trace (loaded op rq s) 1 0 op (rq.mailbox.val * 65536 + rq.tag.toNat) 0

/-- Mailbox m is DONE and its window holds a reply header of that opcode, tag and status (R394). -/
def answered (t : State) (m op tag code : Nat) : Prop :=
  (boxAt t m).state = 2 ∧ windowGet (boxAt t m) 0 4 = bytesOfNat 2 op ++ bytesOfNat 2 tag ∧
    windowGet (boxAt t m) 8 1 = [BitVec.ofNat 8 code]

/-- Reply payload bytes of mailbox m. -/
def replyBytes (t : State) (m n : Nat) : List Byte := windowGet (boxAt t m) 16 n

/-- The opcode and the request of a mailbox row, with the row's own sub-action put into the payload (R403). -/
def mailboxOf : Instr → Option (Nat × MbReq)
  | .identify rq => some (0x0001, rq)
  | .attest rq => some (0x0002, rq)
  | .lifecycle rq => some (0x0003, rq)
  | .fwLoad rq => some (0x0004, rq)
  | .config rq => some (0x0005, rq)
  | .jobSetup rq => some (0x0010, rq)
  | .jobAdmit rq => some (0x0011, rq)
  | .jobEnd rq => some (0x0012, rq)
  | .jobHold rq => some (0x0013, rq)
  | .jobResume rq => some (0x0014, rq)
  | .jobParam rq => some (0x0015, rq)
  | .sealConfig rq => some (0x0018, rq)
  | .restoreLocal rq => some (0x0019, withAction rq 0 0)
  | .restorePull rq => some (0x0019, withAction rq 0 1)
  | .pullServe rq => some (0x001A, rq)
  | .tensorCreate rq => some (0x0020, rq)
  | .tensorSetFreeze rq => some (0x0021, withAction rq 4 1)
  | .tensorSetUnfreeze rq => some (0x0021, withAction rq 4 2)
  | .tensorSetPinScale rq => some (0x0021, withAction rq 4 3)
  | .tensorSetUnpinScale rq => some (0x0021, withAction rq 4 4)
  | .tensorSetClearHistory rq => some (0x0021, withAction rq 4 5)
  | .tensorSetS rq => some (0x0021, withAction rq 4 6)
  | .optsetWrite rq => some (0x0022, rq)
  | .pin rq => some (0x0023, rq)
  | .waybillLoad rq => some (0x0028, rq)
  | .planLoad rq => some (0x0029, rq)
  | .stepDispatch rq => some (0x0030, rq)
  | .groupWrite rq => some (0x0038, withAction rq 1 0)
  | .groupInvalidate rq => some (0x0038, withAction rq 1 1)
  | .routeWrite rq => some (0x0039, rq)
  | .overrideSet rq => some (0x003A, withAction rq 2 0)
  | .overrideRemove rq => some (0x003A, withAction rq 2 1)
  | .opSet rq => some (0x0040, rq)
  | .powerCap rq => some (0x0041, rq)
  | .gateOff rq => some (0x0042, withAction rq 1 0)
  | .gateOn rq => some (0x0042, withAction rq 1 1)
  | .stateRead rq => some (0x0048, rq)
  | .counterSnapshot rq => some (0x0049, rq)
  | .traceConfig rq => some (0x004A, rq)
  | _ => none

/-- The meaning of a mailbox row after it is accepted: the state it leaves and its reply. -/
def outcome (op : Nat) (rq : MbReq) (s : State) : State × Reply := commandOf op (begun op rq s) (asReq op rq)

/-- An accepted row passes its own rule too: its reply says that it is carried out, and nothing of it stays in progress. -/
def granted (op : Nat) (rq : MbReq) (s : State) : Bool :=
  accepted op rq s && (outcome op rq s).2.status == 0 && (outcome op rq s).2.busy.isNone

/-- Row c completes: exec answers a next state, the reply says that the command is carried out, and P holds of that state. -/
def carriedOut (c : Instr) (op : Nat) (rq : MbReq) (s : State) (P : State → Prop) : Prop :=
  ∃ t, exec c s = .next t ∧ answered t rq.mailbox.val op rq.tag.toNat 0 ∧ P t

/-- The change that TENSOR_SET asks for (R406). -/
def tensorChange (rq : MbReq) (action : Nat) : BoundaryCmd :=
  .tensorSet (BitVec.ofNat 32 (leAt rq.payload 0 4)) action (BitVec.ofNat 16 (leAt rq.payload 6 2))

/-- What a command that takes effect at a boundary leaves waiting for it in state s (R401); none for every other command, and for
one that takes effect at once. -/
def waitingChange (s : State) : Instr → Option BoundaryCmd
  | .jobParam rq => some (.jobParam (byteAt rq.payload 0).toNat (byteAt rq.payload 1) (BitVec.ofNat 32 (leAt rq.payload 4 4)))
  | .tensorSetFreeze rq => some (tensorChange (withAction rq 4 1) 1)
  | .tensorSetUnfreeze rq => some (tensorChange (withAction rq 4 2) 2)
  | .tensorSetPinScale rq => some (tensorChange (withAction rq 4 3) 3)
  | .tensorSetUnpinScale rq => some (tensorChange (withAction rq 4 4) 4)
  | .tensorSetClearHistory rq => some (tensorChange (withAction rq 4 5) 5)
  | .tensorSetS rq => some (tensorChange (withAction rq 4 6) 6)
  | .optsetWrite rq =>
    if s.step.active then some (.optset (byteAt rq.payload 0).toNat (BitVec.ofNat 256 (leAt rq.payload 8 32))) else none
  | .pin rq => some (.pin (leAt rq.payload 0 2) (byteAt rq.payload 2).toNat (byteAt rq.payload 3).toNat)
  | .overrideSet rq =>
    let p := (withAction rq 2 0).payload
    some (.overrideSet (leAt p 0 2) (BitVec.ofNat 128 (leAt p 8 16)))
  | .overrideRemove rq => some (.overrideRemove (leAt (withAction rq 2 1).payload 0 2))
  | .opSet rq =>
    let o := (byteAt rq.payload 0).toNat
    if s.step.active then some (.opSet o (checkChange s o s.pow.cap (byteAt rq.payload 1 == 1)).2.2) else none
  | .powerCap rq =>
    let w := leAt rq.payload 0 2
    if s.step.active then some (.powerCap w (checkChange s s.pow.opNow w (byteAt rq.payload 2 == 1)).2.2) else none
  | _ => none

/-! ### Resets and frames -/

/-- The inside of the module in t as a reset of that cause leaves it, with what a reset keeps taken from s (R438, R253). -/
def atReset (s t : State) (cause : Nat) : Prop :=
  t.ident.stage = 1 ∧ t.ident.resetCause = cause ∧ t.ident.fwVersion = 0 ∧ t.ident.fabricAddr = 0xFFFF ∧ t.ident.chFail = 0 ∧
    t.ident.jobStep = 0 ∧ t.ident.committed = 0 ∧ t.ident.nmiClock = false ∧ t.ident.verified = false ∧
    t.ident.nextRate = (if cause = 0 then 12800 else s.ident.nextRate) ∧
    t.mbox = [] ∧ t.evq = EvqSt.initial ∧ t.obs = ObsSt.initial ∧ t.mem = MemSt.wiped ∧ t.fab = FabSt.initial ∧
    t.sealer = SealSt.none ∧ t.buddy = BuddySt.none ∧ t.restore = none ∧ t.job = JobSt.none ∧ t.pow = PowerSt.initial ∧
    t.step = StepSt.none ∧ t.eng = EngSt.none ∧ t.assay = AssaySt.none ∧ t.fuses = s.fuses ∧ t.pcie.hostMem = s.pcie.hostMem

/-- Every rail but VAUX is off in t, and what that leaves as it was in s: memory, job, fuses (R447, R471). -/
def railsFell (s t : State) : Prop :=
  t.pins.railsOn = false ∧ t.pins.ramping = false ∧ t.pcie.linkUp = false ∧ t.fab.ports = [] ∧ t.fab.txq = [] ∧
    t.clk.running = false ∧ t.ident.stage = 1 ∧ t.mem = s.mem ∧ t.job = s.job ∧ t.fuses = s.fuses ∧ t.pow = s.pow

/-- The memories of t are those of s; the list of units that have raised an event in the step may have been cleared (R252). -/
def sameMemory (s t : State) : Prop := t.mem = { s.mem with ueRaised := t.mem.ueRaised }

/-- The row of an arriving frame: its port and the frame. -/
def frameOf : Instr → Option (Fin 24 × Frame)
  | .linkFrame p f => some (p, f)
  | .collFrame p f => some (p, f)
  | .stageQueueDataFrame p f => some (p, f)
  | .creditReturn p f => some (p, f)
  | .voteFrame p f => some (p, f)
  | .tagOnlyFrame p f => some (p, f)
  | .barrierFrame p f => some (p, f)
  | .sealPageFrame p f => some (p, f)
  | .sealJournalFrame p f => some (p, f)
  | .sealRecordFrame p f => some (p, f)
  | .sealMarkerFrame p f => some (p, f)
  | .sealAckFrame p f => some (p, f)
  | .sealSecuredFrame p f => some (p, f)
  | .sealCommitFrame p f => some (p, f)
  | .sealDiscardFrame p f => some (p, f)
  | .sealPullFrame p f => some (p, f)
  | .sealPulledFrame p f => some (p, f)
  | .sealReserveFrame p f => some (p, f)
  | _ => none

/-- The link layer accepts a frame: the port is UP, the CRC is right and the frame is the next in sequence (R314). -/
def onLink (s : State) (p : Nat) (f : Frame) : Bool :=
  portUp s p && !stopped s && frameCrc f == tCrc f && tLseq f == (portAt s p).lastIn + 1

/-- An accepted frame is for this module, of a type and kind in use, and the Foreman runs (R315, R316, R359). -/
def reaches (s : State) (p : Nat) (f : Frame) : Bool :=
  onLink s p f && fType f != 0xF && fDest f == ownAddr s && (vcOf (fType f)).isSome && !reservedFrame f && foremanUp s

/-- The state once the link layer has taken a frame: acknowledgements, credits, counters, the time of its source (R314, R315). -/
def linked (s : State) (p : Nat) (f : Frame) : State := (linkReceive s p f).1

/-- Only the fabric side, the counters with the trace and the energy counts of t differ from s. -/
def onlyFabric (s t : State) : Prop := t = { s with fab := t.fab, obs := t.obs, pow := { s.pow with events := t.pow.events } }

/-- A group frame is one its group takes: the group is VALID with the frame's GEN, a job exists, the source is a member (R325). -/
def fromMember (s : State) (f : Frame) : Bool :=
  match groupOf s (fGroup f) with
  | some r => (gGen r).toNat == fGen f && jobExists s && (memberIndex r (fSrc f)).isSome
  | none => false

end Sys2Proof.Machine
end

