-- ==== Sys2Proof/Certificates/Slice0/Obligations.lean ====
section
/-! DEFINITION. The statements about the block, from the numbered rules of spec/. Each says in its docstring which rule it follows, or
which choice of the model it rests on. -/

open Sys2Proof Sys2Proof.Machine

/-! ### The step and the state as a whole -/

/-- One step takes the command at the front of the queue and runs it with the queue's rest (log 3: one queue is the model's). -/
def Obligations.StepRunsFront : Prop :=
  ∀ (c : Instr) (rest : List Instr) (s : State), step { s with pending := c :: rest } = exec c { s with pending := rest }

/-- With nothing queued one period of the driving clock passes, and the timebase is floor(n × 625/24) of the periods (R442; that a step
on an empty queue is one period is the model's choice, log 3). -/
def Obligations.IdleStepTicks : Prop :=
  ∀ s : State, s.pending = [] → ∃ t, step s = .next t ∧
    (s.clk.running = false → t = s) ∧
    (s.clk.running = true → t.clk = { s.clk with periods := s.clk.periods + 1 } ∧
      timebase t = (s.clk.periods + 1) * 625 / 24 ∧
      t = { s with clk := t.clk, obs := { s.obs with counters := t.obs.counters }, step := { s.step with idle := t.step.idle } })

/-- A command's effect leaves the commands that wait behind it (log 3). -/
def Obligations.QueueUntouched : Prop := ∀ (c : Instr) (s t : State), exec c s = .next t → t.pending = s.pending

/-- Every step keeps the form of every memory: module data and metadata, host memory, mailbox windows. -/
def Obligations.MemoryFormKept : Prop := ∀ s t : State, Memory.wf s = true → step s = .next t → Memory.wf t = true

/-- The form holds at reset, where nothing is listed and every byte reads as zero (R253); the identity and status page, the mailboxes, the
event queue block and the trace block hold their reset values (R391, R420, R432, R501), every port is DOWN (R310) and there is no job
(R371). -/
def Obligations.ResetState : Prop :=
  (Memory.wf State.reset = true ∧ (∀ p, byteOf State.reset p = 0) ∧ State.reset.pending = []) ∧
  (State.reset.ident.stage = 1 ∧ State.reset.ident.fwVersion = 0 ∧ State.reset.ident.fabricAddr = 0xFFFF ∧
  State.reset.pow.cap = 1250 ∧ State.reset.pow.opNow = 1 ∧ State.reset.ident.chFail = 0 ∧ State.reset.ident.jobStep = 0 ∧
  State.reset.ident.committed = 0 ∧ State.reset.ident.nmiClock = false ∧ State.reset.clk.onOsc = true ∧
  State.reset.ident.dmaBase = 0 ∧ State.reset.ident.imageAddr = 0 ∧ State.reset.job.state = 0 ∧
  (∀ m, (boxAt State.reset m).state = 0) ∧ (∀ p, (portAt State.reset p).state = 0) ∧
  State.reset.evq.enable = false ∧ State.reset.evq.tail = 0 ∧ State.reset.evq.head = 0 ∧ State.reset.evq.lost = 0 ∧
  State.reset.obs.mask = 0 ∧ State.reset.obs.pages = 0 ∧ State.reset.obs.wr = 0)

/-- The anti-rollback counter never falls and a scrapped module stays scrapped, whatever step is taken (R478, R483, R488). -/
def Obligations.FusesOneWay : Prop :=
  ∀ s t : State, step s = .next t → s.fuses.rollback ≤ t.fuses.rollback ∧ (s.fuses.keyDestroyed = true → t.fuses.keyDestroyed = true)

/-! ### Mailboxes (R391 to R396) -/

/-- A BUSY mailbox ignores what the host writes to it and counts it: nothing but IGNORED of that mailbox and the host's own memory
changes (R392, R393; a row's writes are 64-bit ones, log 4). -/
def Obligations.BusyMailboxIgnores : Prop :=
  ∀ (c : Instr) (op : Nat) (rq : MbReq) (s : State), mailboxOf c = some (op, rq) → hostReaches s = true →
    (boxAt s rq.mailbox.val).state = 1 → ∃ t, exec c s = .next t ∧ behindHost s t = s ∧ t.obs = s.obs ∧ t.evq = s.evq ∧
      boxAt t rq.mailbox.val = { boxAt s rq.mailbox.val with
        ignored := min 255 ((boxAt s rq.mailbox.val).ignored + (3 + ceilDiv rq.payload.length 8)) } ∧
      ∀ m, m ≠ rq.mailbox.val → boxAt t m = boxAt s m

/-- The Foreman checks a request in the order of R396 and stops at the first failure: the reply carries that check's status and nothing
behind the host interface changes. -/
def Obligations.RequestChecked : Prop :=
  ∀ (c : Instr) (op : Nat) (rq : MbReq) (rep : Reply) (s : State), mailboxOf c = some (op, rq) → wholeReq rq = true →
    hostReaches s = true → (boxAt s rq.mailbox.val).state ≠ 1 →
    checkRequest s (asReq op rq) (requestHeader op rq) = some rep →
    ∃ t, exec c s = .next t ∧ answered t rq.mailbox.val op rq.tag.toNat rep.status ∧ behindHost s t = s ∧
      ∀ m, m ≠ rq.mailbox.val → boxAt t m = boxAt s m

/-- The first five checks of R396 in their order, of the reserved fields those of the header: each status is given where the checks
before it pass. -/
def Obligations.CheckOrder : Prop :=
  ∀ (s : State) (r : Req) (hdr : Nat),
    (cmdShape r.op = none → checkRequest s r hdr = some (status BAD_OPCODE)) ∧
    (∀ sh, cmdShape r.op = some sh →
      (r.box ∉ sh.boxes → checkRequest s r hdr = some (status WRONG_MAILBOX)) ∧
      (r.box ∈ sh.boxes → stageAllows s r.box r.op = false → checkRequest s r hdr = some (status NOT_READY)) ∧
      (r.box ∈ sh.boxes → stageAllows s r.box r.op = true → lengthSuits r.op sh r.payload r.length = false →
        checkRequest s r hdr = some (status BAD_LENGTH)) ∧
      (r.box ∈ sh.boxes → stageAllows s r.box r.op = true → lengthSuits r.op sh r.payload r.length = true →
        natFld hdr 55 49 ≠ 0 → checkRequest s r hdr = some (status BAD_RESERVED 6)))

/-- A mailbox row that is granted completes: the reply repeats OPCODE and TAG and says 0x00, and what the command made of the state
behind the host interface stands (R393, R394). LIFECYCLE and FW_LOAD have their own statements. -/
def Obligations.GrantedCompletes : Prop :=
  ∀ (c : Instr) (op : Nat) (rq : MbReq) (s : State), mailboxOf c = some (op, rq) → op ≠ 3 → op ≠ 4 → granted op rq s = true →
    carriedOut c op rq s fun t => behindHost s t = behindHost s (outcome op rq s).1

/-! ### Commands of the module and of the job -/

/-- IDENTIFY returns the fields of R406 and changes nothing. STATE_READ changes nothing but, reading the page map, the words it corrects
and logs (R237, R249); COUNTER_SNAPSHOT copies COUNT counters, 512 at most, into the snapshot window and returns the timebase; TRACE_CONFIG
sets MASK and PAGES (R407, R499, R501). Rows that complete so: identify, stateRead, counterSnapshot, traceConfig. -/
def Obligations.ModuleReads : Prop :=
  (∀ (rq : MbReq) (s : State), accepted 0x0001 rq s = true → carriedOut (.identify rq) 0x0001 rq s fun t =>
    behindHost s t = s ∧
    replyBytes t rq.mailbox.val 64 =
      bytesOfNat 2 0x5CE1 ++ bytesOfNat 2 0x0B71 ++ bytesOfNat 2 s.fuses.revId.toNat ++ bytesOfNat 1 (bit s.fuses.order512) ++
      bytesOfNat 1 s.ident.stage ++ bytesOfNat 1 (lifecycleOf s.fuses) ++ bytesOfNat 1 s.job.state ++
      bytesOfNat 1 (if s.job.state = 3 then s.job.cause else 0) ++ bytesOfNat 1 s.pow.opNow ++
      bytesOfNat 4 s.ident.fwVersion.toNat ++ bytesOfNat 4 s.fuses.rollback ++ bytesOfNat 2 s.ident.fabricAddr.toNat ++
      bytesOfNat 2 s.pow.cap ++ bytesOfNat 8 s.ident.chFail.toNat ++ bytesOfNat 6 s.ident.jobStep.toNat ++ bytesOfNat 2 0 ++
      bytesOfNat 4 s.ident.committed.toNat ++ bytesOfNat 20 0) ∧
  (∀ (rq : MbReq) (s : State),
    (accepted 0x0048 rq s = true → carriedOut (.stateRead rq) 0x0048 rq s fun t =>
      behindHost s t = { s with mem := t.mem } ∧ (byteAt rq.payload 0 ≠ 10 → t.mem = s.mem)) ∧
    (accepted 0x0049 rq s = true → leAt rq.payload 2 2 ≠ 0 → carriedOut (.counterSnapshot rq) 0x0049 rq s fun t =>
      behindHost s t = s ∧ replyBytes t rq.mailbox.val 8 = bytesOfNat 8 (timebase s) ∧
      ∀ i, i < min 512 (leAt rq.payload 2 2) →
        mapGet t.obs.snapshot (8 * i) 0 = counterValue (begun 0x0049 rq s) (leAt rq.payload 0 2 + i)) ∧
    (granted 0x004A rq s = true → carriedOut (.traceConfig rq) 0x004A rq s fun t =>
      behindHost s t = s ∧ t.obs.mask = BitVec.ofNat 64 (leAt rq.payload 0 8) ∧
      t.obs.pages = BitVec.ofNat 32 (leAt rq.payload 8 4)))

/-- CONFIG sets the fields its VALID bits name and nothing else; a fabric address only while every port is DOWN (R406, R316). Rows that
complete so: config. -/
def Obligations.ConfigSets : Prop :=
  ∀ (rq : MbReq) (s : State), accepted 0x0005 rq s = true →
    (((byteAt rq.payload 0).toNat.testBit 0 = false ∨ ∀ p < 24, (portAt s p).state = 0) →
      carriedOut (.config rq) 0x0005 rq s fun t => behindHost s t = { s with ident := { s.ident with
        fabricAddr := if (byteAt rq.payload 0).toNat.testBit 0 then BitVec.ofNat 16 (leAt rq.payload 2 2) else s.ident.fabricAddr
        nextRate := if (byteAt rq.payload 0).toNat.testBit 1 then rateOf (byteAt rq.payload 1).toNat else s.ident.nextRate
        ceLimit := if (byteAt rq.payload 0).toNat.testBit 2 then BitVec.ofNat 32 (leAt rq.payload 4 4) else s.ident.ceLimit } }) ∧
    ((byteAt rq.payload 0).toNat.testBit 0 = true → (∃ p < 24, (portAt s p).state ≠ 0) →
      ∃ t, exec (.config rq) s = .next t ∧ answered t rq.mailbox.val 0x0005 rq.tag.toNat REFUSE_CONFIG_STATE ∧ behindHost s t = s)

/-- JOB_SETUP opens a job in SETUP with SEED, RANK, KIND, BARRIER_GROUP and T0 as R410 gives them, and no object; groups, routes, fuses,
the operating points and LPDDR6 stay. Rows that complete so: jobSetup. -/
def Obligations.JobSetupOpens : Prop :=
  ∀ (rq : MbReq) (s : State), granted 0x0010 rq s = true → carriedOut (.jobSetup rq) 0x0010 rq s fun t =>
    t.job.state = 1 ∧ t.job.seed = BitVec.ofNat 64 (leAt rq.payload 0 8) ∧ t.job.rank = BitVec.ofNat 24 (leAt rq.payload 8 3) ∧
    t.job.kind = leAt rq.payload 11 1 ∧ t.job.barrier = leAt rq.payload 13 1 ∧ t.job.admitted = false ∧
    t.job.t0 = BitVec.ofNat 48 (leAt rq.payload 16 6) ∧ t.ident.jobStep = BitVec.ofNat 48 (leAt rq.payload 16 6) ∧
    t.ident.committed = 0 ∧ t.job.tensors = [] ∧ t.job.plans = [] ∧ t.job.dispatches = [] ∧ t.step.active = false ∧
    t.fab.groups = s.fab.groups ∧ t.fab.routes = s.fab.routes ∧ t.fuses = s.fuses ∧ t.pow = s.pow ∧ t.pins = s.pins ∧
    ∀ p < 2 ^ 40, byteOf t p = byteOf s p

/-- JOB_ADMIT admits the job with every plan it lists and, without TAKEOVER, begins the initial seal under GEN0 (R346, R357, R414). Rows
that complete so: jobAdmit. -/
def Obligations.JobAdmitBegins : Prop :=
  ∀ (rq : MbReq) (s : State), granted 0x0011 rq s = true → carriedOut (.jobAdmit rq) 0x0011 rq s fun t =>
    t.job.admitted = true ∧ t.job.state = s.job.state ∧
    (∀ p x, mapFind t.job.plans p = some x → p < (byteAt rq.payload 29).toNat → x.admitted = true) ∧
    (sdTakeover s.job.sealDesc = false → t.step.number = BitVec.ofNat 48 s.job.t0.toNat ∧ t.step.barrier = 1 ∧
      (mapFind t.sealer.records (gen0 s).toNat).isSome = true) ∧
    t.fuses = s.fuses ∧ t.fab.groups = s.fab.groups ∧ t.fab.routes = s.fab.routes

/-- JOB_END leaves no job, clears the scratchpads, and keeps groups, routes and the module's configuration (R404). Rows that complete so:
jobEnd. -/
def Obligations.JobEndClears : Prop :=
  ∀ (rq : MbReq) (s : State), accepted 0x0012 rq s = true → carriedOut (.jobEnd rq) 0x0012 rq s fun t =>
    t.job = JobSt.none ∧ t.step = StepSt.none ∧ t.sealer = SealSt.none ∧ t.buddy = BuddySt.none ∧ t.restore = none ∧
    t.ident.jobStep = 0 ∧ t.ident.committed = 0 ∧ t.ident.fabricAddr = s.ident.fabricAddr ∧ t.fab.groups = s.fab.groups ∧
    t.fab.routes = s.fab.routes ∧ t.fuses = s.fuses ∧
    ∀ p, scratchBase ≤ p → p < storeBase → byteOf t p = 0

/-- JOB_HOLD enters HOLD with cause HOST_CMD and discards the waiting dispatches; the job's objects stay (R372). JOB_RESUME ends a hold of
cause HOST_LOST and refuses any other (R371, R374, R403). Rows that complete so: jobHold, jobResume. -/
def Obligations.JobHeldAndResumed : Prop :=
  (∀ (rq : MbReq) (s : State), accepted 0x0013 rq s = true → carriedOut (.jobHold rq) 0x0013 rq s fun t =>
    t.job.state = 3 ∧ t.job.cause = 2 ∧ t.job.dispatches = [] ∧ t.job.tensors = s.job.tensors ∧ t.job.plans = s.job.plans ∧
    sameMemory s t ∧ t.fuses = s.fuses ∧ t.ident.committed = s.ident.committed) ∧
  (∀ (rq : MbReq) (s : State), accepted 0x0014 rq s = true →
    (s.job.cause = 3 → s.job.dueHold = 0 → carriedOut (.jobResume rq) 0x0014 rq s fun t =>
      t.job.state = 2 ∧ t.job.cause = 0 ∧ t.job.holding = false) ∧
    (s.job.cause ≠ 3 → ∃ t, exec (.jobResume rq) s = .next t ∧
      answered t rq.mailbox.val 0x0014 rq.tag.toNat REFUSE_STATE ∧ behindHost s t = s))

/-- A command that takes effect at a boundary joins those that wait for it, in completion order, and changes nothing else behind the host
interface (R283, R401): JOB_PARAM, PIN, OVERRIDE, TENSOR_SET, and OPTSET_WRITE, OP_SET and POWER_CAP while a step runs. Rows that complete
so: jobParam, pin, overrideSet, overrideRemove, the six tensorSet rows, optsetWrite, opSet, powerCap. -/
def Obligations.BoundaryChangeWaits : Prop :=
  ∀ (c : Instr) (op : Nat) (rq : MbReq) (b : BoundaryCmd) (s : State), mailboxOf c = some (op, rq) →
    waitingChange s c = some b → granted op rq s = true →
    carriedOut c op rq s fun t => behindHost s t = { s with job := { s.job with due := s.job.due ++ [b] } }

/-- TENSOR_SET completes and leaves one change waiting; that change, at its boundary, acts on its tensor and on no other: FROZEN, the scale
and its pin, the amax history, S (R37, R283, R284, R355, R401, R406). Rows that complete so: tensorSetFreeze, tensorSetUnfreeze,
tensorSetPinScale, tensorSetUnpinScale, tensorSetClearHistory, tensorSetS. -/
def Obligations.TensorSetTakesEffect : Prop :=
  ∀ (rq : MbReq) (s : State) (h : Nat) (x : Tensor), h = leAt rq.payload 0 4 → tensorOf s h = some x →
    (accepted 0x0021 (withAction rq 4 1) s = true → carriedOut (.tensorSetFreeze rq) 0x0021 (withAction rq 4 1) s fun t =>
      ∃ b, behindHost s t = { s with job := { s.job with due := s.job.due ++ [b] } } ∧
        applyDue s b = setTensor s h { x with mill := setFld x.mill 80 80 1 }) ∧
    (accepted 0x0021 (withAction rq 4 2) s = true → carriedOut (.tensorSetUnfreeze rq) 0x0021 (withAction rq 4 2) s fun t =>
      ∃ b, behindHost s t = { s with job := { s.job with due := s.job.due ++ [b] } } ∧
        applyDue s b = setTensor s h { x with mill := setFld x.mill 80 80 0 }) ∧
    (granted 0x0021 (withAction rq 4 3) s = true → carriedOut (.tensorSetPinScale rq) 0x0021 (withAction rq 4 3) s fun t =>
      ∃ b, behindHost s t = { s with job := { s.job with due := s.job.due ++ [b] } } ∧
        applyDue s b = setTensor s h
          { x with hist := setFld (setFld x.hist 47 32 (leAt (withAction rq 4 3).payload 6 2)) 48 48 1 }) ∧
    (granted 0x0021 (withAction rq 4 4) s = true → carriedOut (.tensorSetUnpinScale rq) 0x0021 (withAction rq 4 4) s fun t =>
      ∃ b, behindHost s t = { s with job := { s.job with due := s.job.due ++ [b] } } ∧
        applyDue s b = setTensor s h { x with hist := setFld x.hist 48 48 0 }) ∧
    (accepted 0x0021 (withAction rq 4 5) s = true → carriedOut (.tensorSetClearHistory rq) 0x0021 (withAction rq 4 5) s fun t =>
      ∃ b, behindHost s t = { s with job := { s.job with due := s.job.due ++ [b] } } ∧
        applyDue s b = beginCalibration (setTensor s h { x with hist := setFld (setFld x.hist 53 49 0) 319 64 0 }) h) ∧
    (granted 0x0021 (withAction rq 4 6) s = true → carriedOut (.tensorSetS rq) 0x0021 (withAction rq 4 6) s fun t =>
      ∃ b, behindHost s t = { s with job := { s.job with due := s.job.due ++ [b] } } ∧
        applyDue s b = setTensor s h
          { x with mill := setFld x.mill 79 64 (leAt (withAction rq 4 6).payload 6 2) })

/-- OPTSET_WRITE, OP_SET and POWER_CAP act at once while no step runs (R264, R401, R450, R455): the set, the host request with the lowest
of the three limits in force, the cap. Rows that complete so: optsetWrite, opSet, powerCap. -/
def Obligations.ChangeAtOnce : Prop :=
  ∀ (rq : MbReq) (s : State), s.step.active = false →
    (granted 0x0022 rq s = true → carriedOut (.optsetWrite rq) 0x0022 rq s fun t =>
      behindHost s t = { s with job := { s.job with
        optsets := mapSet s.job.optsets (byteAt rq.payload 0).toNat (BitVec.ofNat 256 (leAt rq.payload 8 32)) } }) ∧
    (granted 0x0040 rq s = true → carriedOut (.opSet rq) 0x0040 rq s fun t =>
      t.pow.opHost = (byteAt rq.payload 0).toNat ∧
      t.pow.opNow = min (byteAt rq.payload 0).toNat (min s.pow.opPurse s.pow.opThermal) ∧
      behindHost s t = { s with pow := { s.pow with opHost := t.pow.opHost, opNow := t.pow.opNow, ramp := t.pow.ramp,
                                                     forced := t.pow.forced } }) ∧
    (granted 0x0041 rq s = true → carriedOut (.powerCap rq) 0x0041 rq s fun t =>
      t.pow.cap = leAt rq.payload 0 2 ∧
      behindHost s t = { s with pow := { s.pow with cap := t.pow.cap, forced := t.pow.forced } })

/-- SEAL_CONFIG replaces the seal descriptor; a changed buddy takes the next shipment in full, and in SETUP is asked for room, an unchanged
one leaves the Scrivener as it was (R349, R351, R385; when RESERVE is sent is the model's choice, log 23). PULL_SERVE names the spare and
the generation it may pull (R370). Rows that complete so: sealConfig, pullServe. -/
def Obligations.SealConfigAndServe : Prop :=
  ∀ (rq : MbReq) (s : State),
    (granted 0x0018 rq s = true → carriedOut (.sealConfig rq) 0x0018 rq s fun t =>
      behindHost s t = { s with
        job := { s.job with sealDesc := BitVec.ofNat 256 (leAt rq.payload 0 32) }
        sealer := if sdBuddy (BitVec.ofNat 256 (leAt rq.payload 0 32)) = sdBuddy s.job.sealDesc then s.sealer
                  else { s.sealer with newBuddy := true, reserve := none }
        fab := t.fab } ∧
      (sdBuddy (BitVec.ofNat 256 (leAt rq.payload 0 32)) = sdBuddy s.job.sealDesc ∨ s.job.state ≠ 1 → t.fab = s.fab)) ∧
    (granted 0x001A rq s = true → carriedOut (.pullServe rq) 0x001A rq s fun t =>
      behindHost s t = { s with
        buddy := { s.buddy with serve := some (leAt rq.payload 0 2, BitVec.ofNat 32 (leAt rq.payload 4 4)) } })

/-- RESTORE from the staging area, where it completes at once, leaves no step, dispatch or restore under way, and the last step begun is
the one the job step counter returned to (R379, R380, R385). RESTORE by a pull asks the buddy: the job is RESTORING and the command stays
in progress (R381). Rows that complete so: restoreLocal, restorePull. -/
def Obligations.RestoresBegin : Prop :=
  (∀ (rq : MbReq) (s : State), granted 0x0019 (withAction rq 0 0) s = true →
    carriedOut (.restoreLocal rq) 0x0019 (withAction rq 0 0) s fun t =>
      t.restore = none ∧ t.step.active = false ∧ t.job.dispatches = [] ∧ t.fuses = s.fuses ∧
      t.job.lastBegun = t.ident.jobStep ∧ t.sealer.uncopied = []) ∧
  (∀ (rq : MbReq) (s : State), accepted 0x0019 (withAction rq 0 1) s = true →
    (s.job.state = 1 → sdTakeover s.job.sealDesc = true) →
    ∃ t, exec (.restorePull rq) s = .next t ∧ (boxAt t rq.mailbox.val).state = 1 ∧
      (boxAt t rq.mailbox.val).inflight = some .restore ∧ t.job = { s.job with state := 4, dispatches := [] } ∧
      (∃ r, t.restore = some r ∧ r.pull = true ∧ r.target = BitVec.ofNat 32 (leAt (withAction rq 0 1).payload 4 4) ∧
        r.rank = BitVec.ofNat 24 (leAt (withAction rq 0 1).payload 1 3) ∧ r.prior = s.job.state) ∧
      t.mem = s.mem ∧ t.ident = s.ident ∧ t.step = s.step ∧ t.pow = s.pow)

/-! ### Objects of a job, tables and reads -/

/-- TENSOR_CREATE adds the tensor with an empty history (R284, R355, R408, R409); WAYBILL_LOAD stores the image under its handle and
PLAN_LOAD the entries under the plan's number, not yet admitted (R204, R411, R412); every other object of the job stays. Rows that complete
so: tensorCreate, waybillLoad, planLoad. -/
def Obligations.ObjectsCreated : Prop :=
  (∀ (rq : MbReq) (s : State), granted 0x0020 rq s = true → carriedOut (.tensorCreate rq) 0x0020 rq s fun t =>
    let d := BitVec.ofNat 512 (leAt rq.payload 0 64)
    tensorOf t (fld d 31 0) = some (newTensor d) ∧ (∀ k, k ≠ fld d 31 0 → tensorOf t k = tensorOf s k) ∧
    t.job = { s.job with tensors := t.job.tensors } ∧ t.pow = s.pow ∧ t.fab = s.fab ∧ t.step = s.step ∧
    ∀ p < 2 ^ 40, byteOf t p = byteOf s p) ∧
  (∀ (rq : MbReq) (s : State),
    (granted 0x0028 rq s = true → carriedOut (.waybillLoad rq) 0x0028 rq s fun t =>
      behindHost s t = { s with job := { s.job with
        waybills := mapSet s.job.waybills (leAt rq.payload 0 2) (rq.payload.drop 8) } }) ∧
    (granted 0x0029 rq s = true → carriedOut (.planLoad rq) 0x0029 rq s fun t =>
      ∃ x, mapFind t.job.plans (byteAt rq.payload 0).toNat = some x ∧ x.entries.length = leAt rq.payload 2 2 ∧ x.admitted = false ∧
        (∀ p, p ≠ (byteAt rq.payload 0).toNat → mapFind t.job.plans p = mapFind s.job.plans p) ∧
        t.job = { s.job with plans := t.job.plans } ∧ t.pow = s.pow ∧ t.fab = s.fab ∧ t.step = s.step))

/-- STEP_DISPATCH queues the next step, behind at most one more, and returns its number (R371, R417). Rows that complete so: stepDispatch. -/
def Obligations.StepDispatched : Prop :=
  ∀ (rq : MbReq) (s : State), granted 0x0030 rq s = true → carriedOut (.stepDispatch rq) 0x0030 rq s fun t =>
    s.job.state = 2 ∧ s.job.dispatches.length < 2 ∧
    ∃ d : Dispatch, t.job = { s.job with dispatches := s.job.dispatches ++ [d], cursor := d.cursor } ∧
      d.plan = (byteAt rq.payload 0).toNat ∧
      d.step = BitVec.ofNat 48 (s.job.lastBegun.toNat + s.job.dispatches.length + 1) ∧
      d.cursor = BitVec.ofNat 48 (leAt rq.payload 8 6) ∧ d.upd.length = leAt rq.payload 24 4 ∧
      replyBytes t rq.mailbox.val 6 = bytesOfNat 6 (s.job.lastBegun.toNat + s.job.dispatches.length + 1) ∧
      t.step = s.step ∧ t.pow = s.pow ∧ t.fab = s.fab

/-- GROUP_WRITE puts the record at its host address in one group's place, and ACTION 1 leaves the group not VALID (R323 to R325);
ROUTE_WRITE writes the COUNT entries at its host address from FIRST on, reserved bits zero (R14, R317, R535), and behind a RESTORE in
progress it waits, BUSY (R400); every other group and route and the job stay. Rows that complete so: groupWrite, groupInvalidate, routeWrite. -/
def Obligations.TablesWritten : Prop :=
  (∀ (rq : MbReq) (s : State),
    (granted 0x0038 (withAction rq 1 0) s = true → carriedOut (.groupWrite rq) 0x0038 (withAction rq 1 0) s fun t =>
      (∃ x, mapFind t.fab.groups (byteAt (withAction rq 1 0).payload 0).toNat = some x ∧
          (hostBase ≤ leAt (withAction rq 1 0).payload 8 8 →
            leAt (withAction rq 1 0).payload 8 8 + leAt (withAction rq 1 0).payload 4 4 ≤ 2 ^ 48 →
            x = groupOfBytes (hostGet (begun 0x0038 (withAction rq 1 0) s) (pcieAddr s (leAt (withAction rq 1 0).payload 8 8))
              (leAt (withAction rq 1 0).payload 4 4)))) ∧
        (∀ g, g ≠ (byteAt (withAction rq 1 0).payload 0).toNat → mapFind t.fab.groups g = mapFind s.fab.groups g) ∧
        t.fab.routes = s.fab.routes ∧ t.job = s.job ∧ t.pow = s.pow) ∧
    (granted 0x0038 (withAction rq 1 1) s = true → carriedOut (.groupInvalidate rq) 0x0038 (withAction rq 1 1) s fun t =>
      groupOf t (byteAt (withAction rq 1 1).payload 0).toNat = none ∧
        (∀ g, g ≠ (byteAt (withAction rq 1 1).payload 0).toNat → mapFind t.fab.groups g = mapFind s.fab.groups g) ∧
        t.fab.routes = s.fab.routes ∧ t.job = s.job ∧ t.pow = s.pow)) ∧
  (∀ (rq : MbReq) (s : State), granted 0x0039 rq s = true → carriedOut (.routeWrite rq) 0x0039 rq s fun t =>
    (hostBase ≤ leAt rq.payload 8 8 → leAt rq.payload 8 8 + 8 * leAt rq.payload 4 4 ≤ 2 ^ 48 →
      ∀ i, i < leAt rq.payload 4 4 → mapGet t.fab.routes (leAt rq.payload 0 2 + i) 0 =
        BitVec.ofNat 64 (leAt (hostGet (begun 0x0039 rq s) (pcieAddr s (leAt rq.payload 8 8)) (8 * leAt rq.payload 4 4)) (8 * i) 8 &&&
          0xFF3FFF3FFF3FFF3F)) ∧
    (∀ d, d < leAt rq.payload 0 2 ∨ leAt rq.payload 0 2 + leAt rq.payload 4 4 ≤ d →
      mapGet t.fab.routes d 0 = mapGet s.fab.routes d 0) ∧
    t.fab.groups = s.fab.groups ∧ t.job = s.job ∧ t.pow = s.pow) ∧
  (∀ (rq : MbReq) (s : State), accepted 0x0039 rq s = true → restoreRuns (begun 0x0039 rq s) = true →
    ∃ t, exec (.routeWrite rq) s = .next t ∧ (boxAt t rq.mailbox.val).state = 1 ∧
      (boxAt t rq.mailbox.val).inflight = some .routes ∧ t.fab = s.fab ∧ t.job = s.job ∧ t.mem = s.mem)

/-- GATE off: a node that is on closes, if nothing of R461 is in the way, one that was to reopen closes for good, and any other answers its
state; GATE on: an off node and its off ancestors turn on, a closing one is marked to reopen (R460 to R463). Rows that complete so:
gateOff, gateOn. -/
def Obligations.GateMoves : Prop :=
  ∀ (rq : MbReq) (s : State),
    (accepted 0x0042 (withAction rq 1 0) s = true →
      (gateAt s (byteAt (withAction rq 1 0).payload 0).toNat (leAt (withAction rq 1 0).payload 2 2) = 1 →
        gateRefusal s (byteAt (withAction rq 1 0).payload 0).toNat (leAt (withAction rq 1 0).payload 2 2) = none) →
      carriedOut (.gateOff rq) 0x0042 (withAction rq 1 0) s fun t =>
      let p := (withAction rq 1 0).payload
      let v := gateAt s (byteAt p 0).toNat (leAt p 2 2)
      gateAt t (byteAt p 0).toNat (leAt p 2 2) = (if v = 1 ∨ v = 3 then 2 else v) ∧
      replyBytes t rq.mailbox.val 1 = bytesOfNat 1 (if v = 1 ∨ v = 3 then 2 else v) ∧ t.job = s.job ∧ t.mem = s.mem) ∧
    (accepted 0x0042 (withAction rq 1 1) s = true → carriedOut (.gateOn rq) 0x0042 (withAction rq 1 1) s fun t =>
      let p := (withAction rq 1 1).payload
      let v := gateAt s (byteAt p 0).toNat (leAt p 2 2)
      gateAt t (byteAt p 0).toNat (leAt p 2 2) = (if v = 0 then 1 else if v = 2 then 3 else v) ∧
      replyBytes t rq.mailbox.val 1 = bytesOfNat 1 (if v = 0 then 1 else if v = 2 then 3 else v) ∧ t.job = s.job ∧ t.mem = s.mem)

/-! ### Images, life cycle, attestation -/

/-- ATTEST answers with the length of its report, 1,392 bytes, and changes nothing else behind the host interface (R485, R486). FW_LOAD in
the boot ROM admits an image that passes R482: the rollback counter does not fall, the image's place is kept and it waits to start (R479,
R483). Rows that complete so: attest, fwLoad. -/
def Obligations.ReportsAndImages : Prop :=
  (∀ (rq : MbReq) (s : State), granted 0x0002 rq s = true → carriedOut (.attest rq) 0x0002 rq s fun t =>
    behindHost s t = s ∧ replyBytes t rq.mailbox.val 4 = bytesOfNat 4 1392) ∧
  (∀ (rq : MbReq) (s : State), s.ident.stage = 0 → granted 0x0004 rq s = true →
    carriedOut (.fwLoad rq) 0x0004 rq s fun t =>
      t.ident.verified = true ∧ t.ident.stage = 0 ∧ t.ident.imageAddr = BitVec.ofNat 64 (leAt rq.payload 0 8) ∧
      t.ident.imageLen = BitVec.ofNat 32 (leAt rq.payload 8 4) ∧ s.fuses.rollback ≤ t.fuses.rollback ∧
      t.fuses = { s.fuses with rollback := t.fuses.rollback } ∧ t.mem = s.mem ∧ t.fab = s.fab)

/-- LIFECYCLE begins a transition of R488 whose authorisation, where one is required, passes R489 and R490: its fuses are blown, every port
is DOWN, the fabric address, groups and routes are gone, and the wipe runs while STAGE is 1 (R491); the command stays in progress until the
wipe completes. Rows that complete so: lifecycle. -/
def Obligations.LifecycleBegins : Prop :=
  ∀ (rq : MbReq) (s : State) (auth : Bool), accepted 0x0003 rq s = true →
    transition (lifecycleOf s.fuses) (byteAt rq.payload 0).toNat = some auth →
    (s.fuses.lcLog.length < 16 ∨ (byteAt rq.payload 0).toNat = 4) → (lifecycleOf s.fuses = 1 → scanHolds s.pins.tap = false) →
    (auth = false → leAt rq.payload 16 4 = 0) →
    (auth = true → canMaster s = true ∧ authBad s (lifecycleOf s.fuses) (byteAt rq.payload 0).toNat (leAt rq.payload 16 4)
      (hostGet (begun 0x0003 rq s) (pcieAddr s (leAt rq.payload 8 8)) (min (leAt rq.payload 16 4) 1256)) = none) →
    ∃ t, exec (.lifecycle rq) s = .next t ∧ (boxAt t rq.mailbox.val).state = 1 ∧
      (boxAt t rq.mailbox.val).inflight = some .lifecycle ∧ t.ident.stage = 1 ∧ t.ident.fabricAddr = 0xFFFF ∧
      t.fab.groups = [] ∧ t.fab.routes = [] ∧ t.mem.wiping = true ∧ (∀ p, byteOf t p = 0) ∧ t.pins.railsOn = s.pins.railsOn ∧
      (s.fuses.lcLog.length < 16 → t.fuses.lcLog = s.fuses.lcLog ++ [((byteAt rq.payload 0).toNat, true)] ∧
        lifecycleOf t.fuses = (byteAt rq.payload 0).toNat)

/-! ### The host's registers, BAR2 and SMBus -/

/-- A write into the window of a mailbox that is not BUSY stores its bytes and nothing else; while the mailbox is BUSY it is only counted;
GO runs the Foreman's checks on what the window holds (R391 to R396). Rows that complete so: registerWrite. -/
def Obligations.WindowWritten : Prop :=
  ∀ (off : BitVec 16) (wide : Bool) (v : BitVec 64) (m o n : Nat) (s : State), n = (if wide then 8 else 4) → m < 4 → o < 0x1000 →
    off.toNat = 0x1000 + 0x1000 * m + o → o % n = 0 → hostReaches s = true →
    ((boxAt s m).state ≠ 1 → o < 0xFF0 → ∃ t, exec (.registerWrite off wide v) s = .next t ∧ behindHost s t = s ∧ t.obs = s.obs ∧
      t.evq = s.evq ∧ t.pcie = s.pcie ∧ boxAt t m = { boxAt s m with window := (boxAt t m).window } ∧
      (∀ k, mapGet (boxAt t m).window k 0 =
        if o ≤ k ∧ k < o + n then BitVec.ofNat 8 (v.toNat / 256 ^ (k - o)) else mapGet (boxAt s m).window k 0) ∧
      ∀ k, k ≠ m → boxAt t k = boxAt s k) ∧
    ((boxAt s m).state = 1 → ∃ t, exec (.registerWrite off wide v) s = .next t ∧ behindHost s t = s ∧ t.obs = s.obs ∧
      t.evq = s.evq ∧ t.pcie = s.pcie ∧ boxAt t m = { boxAt s m with ignored := min 255 ((boxAt s m).ignored + 1) } ∧
      ∀ k, k ≠ m → boxAt t k = boxAt s k) ∧
    ((boxAt s m).state ≠ 1 → o = 0xFF0 → v.toNat.testBit 0 = true → ∀ (r : Req) (hdr : Nat) (rep : Reply), requestOf s m = (r, hdr) →
      checkRequest s r hdr = some rep → ∃ t, exec (.registerWrite off wide v) s = .next t ∧ answered t m r.op r.tag rep.status ∧
        behindHost s t = s ∧ ∀ k, k ≠ m → boxAt t k = boxAt s k)

/-- 32-bit writes of the other registers: DMA_BASE while there is no job, EQ_BASE while ENABLE is 0, the vector map, RD_BASE; a write of a
read-only or unused word, or one that is not aligned, changes nothing (R421, R431, R432, R434, R507). A write of the MSI-X table changes
one entry's word, and a vector unmasked while it is pending is signalled once and its pending bit cleared (R423; that it is signalled at
the write is the model's choice, log 11). Rows that complete so: registerWrite. -/
def Obligations.RegistersAndVectorsWritten : Prop :=
  (∀ (off : BitVec 16) (v : BitVec 64) (h : Nat) (s : State), hostReaches s = true → h < 2 →
    (off.toNat = 64 + 4 * h → s.job.state = 0 → exec (.registerWrite off false v) s =
      .next { s with ident := { s.ident with dmaBase := setFld s.ident.dmaBase (32 * h + 31) (32 * h) (v.toNat % 2 ^ 32) } }) ∧
    (off.toNat = 64 + 4 * h → s.job.state ≠ 0 → exec (.registerWrite off false v) s = .next s) ∧
    (off.toNat = 0x8000 + 4 * h → s.evq.enable = false → exec (.registerWrite off false v) s =
      .next { s with evq := { s.evq with base := setFld s.evq.base (32 * h + 31) (32 * h) (v.toNat % 2 ^ 32) } }) ∧
    (off.toNat = 0x8000 + 4 * h → s.evq.enable = true → exec (.registerWrite off false v) s = .next s) ∧
    (∀ w, w < 4 → off.toNat = 0x8018 + 4 * w → exec (.registerWrite off false v) s =
      .next { s with evq := { s.evq with vecmap := setFld s.evq.vecmap (32 * w + 31) (32 * w) (v.toNat % 2 ^ 32 &&& 0x3F3F3F3F) } }) ∧
    (off.toNat = 0xD008 + 4 * h → exec (.registerWrite off false v) s =
      .next { s with obs := { s.obs with rdBase := setFld s.obs.rdBase (32 * h + 31) (32 * h) (v.toNat % 2 ^ 32) } }) ∧
    (off.toNat % 4 ≠ 0 ∨ (off.toNat < 0x1000 ∧ off.toNat ≠ 56 ∧ off.toNat ≠ 64 ∧ off.toNat ≠ 68) ∨
        (0x5000 ≤ off.toNat ∧ off.toNat < 0x8000) ∨ off.toNat = 0x800C ∨ off.toNat = 0x8014 ∨
        (0x8028 ≤ off.toNat ∧ off.toNat < 0xD008) ∨ (0xD010 ≤ off.toNat ∧ off.toNat < 0xE000) ∨ 0xE400 ≤ off.toNat →
      exec (.registerWrite off false v) s = .next s)) ∧
  (∀ (off : BitVec 16) (v : BitVec 64) (n i : Nat) (s : State), hostReaches s = true → n < 64 → i < 4 →
    off.toNat = 0xE000 + 16 * n + 4 * i → ∃ t, exec (.registerWrite off false v) s = .next t ∧
      msixEntry t n = setFld (msixEntry s n) (32 * i + 31) (32 * i) (v.toNat % 2 ^ 32) ∧
      (∀ k, k ≠ n → msixEntry t k = msixEntry s k) ∧ t = { s with pcie := t.pcie } ∧
      (if bitOf (msixEntry t n) 96 = false ∧ bitOf s.pcie.pba n = true ∧ canMaster s = true then
        t.pcie.signals = s.pcie.signals ++ [n] ∧ bitOf t.pcie.pba n = false
      else t.pcie.signals = s.pcie.signals ∧ t.pcie.pba = s.pcie.pba ∧ t.pcie.hostMem = s.pcie.hostMem))

/-- LOG2N is written only while ENABLE is 0, and setting ENABLE clears TAIL, HEAD and LOST; a HEAD write stores HEAD; NMI_CLOCK is cleared
by writing 1 (R420, R421, R432). Rows that complete so: eqEnableWrite, eqHeadWrite, nmiClockClear. -/
def Obligations.EventQueueWritten : Prop :=
  ∀ (v : BitVec 64) (w : BitVec 32) (s : State), hostReaches s = true →
    (∃ t, exec (.eqEnableWrite v) s = .next t ∧ t = { s with evq := t.evq } ∧ t.evq.enable = v.toNat.testBit 8 ∧
      t.evq.base = s.evq.base ∧ t.evq.vecmap = s.evq.vecmap ∧
      t.evq.log2n = (if s.evq.enable then s.evq.log2n else BitVec.ofNat 5 v.toNat) ∧
      (if s.evq.enable = false ∧ v.toNat.testBit 8 = true then t.evq.tail = 0 ∧ t.evq.head = 0 ∧ t.evq.lost = 0
       else t.evq.tail = s.evq.tail ∧ t.evq.head = s.evq.head ∧ t.evq.lost = s.evq.lost)) ∧
    (∃ t, exec (.eqHeadWrite w) s = .next t ∧ t.evq.head = w ∧
      t = { s with evq := { s.evq with head := w, fullSince := t.evq.fullSince } }) ∧
    exec (.nmiClockClear v) s = .next { s with ident := { s.ident with nmiClock := !v.toNat.testBit 0 && s.ident.nmiClock } }

/-- A 32-bit read of the low half of TIMEBASE returns it and latches the high half (R443); word 0 of a view slot returns that word of the
record that the slot shows, zero outside the ring, and latches the whole record (R508). Rows that complete so: timebaseLowRead,
traceSlotRead. -/
def Obligations.LatchingReads : Prop :=
  ∀ (j : Fin 64) (s : State), hostReaches s = true →
    exec .timebaseLowRead s = .next { s with
      clk := { s.clk with latch := some (BitVec.ofNat 32 (timebase s % 2 ^ 64 / 2 ^ 32)) },
      pcie := { s.pcie with readOut := bytesOfNat 4 (timebase s), readEp := false } } ∧
    (∃ t, exec (.traceSlotRead j) s = .next t ∧
      t.pcie = { s.pcie with readOut := bytesOfNat 8 (mapGet t.obs.latch j.val 0).toNat, readEp := false } ∧
      t = { s with pcie := t.pcie, obs := { s.obs with latch := t.obs.latch } } ∧
      (∀ k, k ≠ j.val → mapGet t.obs.latch k 0 = mapGet s.obs.latch k 0) ∧
      (s.ident.stage ≠ 1 → s.obs.rdBase.toNat + j.val < s.obs.wr.toNat → s.obs.wr.toNat ≤ s.obs.rdBase.toNat + j.val + traceCap s →
        mapGet t.obs.latch j.val 0 = mapGet s.obs.ring ((s.obs.rdBase.toNat + j.val) % traceCap s) 0) ∧
      (s.obs.wr.toNat ≤ s.obs.rdBase.toNat + j.val ∨ s.obs.rdBase.toNat + j.val + traceCap s < s.obs.wr.toNat →
        mapGet t.obs.latch j.val 0 = 0))

/-- BAR2: a whole word of a mapped page whose code is clean is read as stored and written with its check and tag, every other byte as
before; where no page can be reached a read gives 0xFF, and a write is discarded and counted (R237, R247, R433). Rows that complete so:
bar2Read, bar2Write. -/
def Obligations.Bar2Accesses : Prop :=
  ∀ (a : BitVec 40) (bs : List Byte) (s : State), hostReaches s = true → a.toNat % 16 = 0 → a.toNat + 16 ≤ 2 ^ s.pcie.bar2Log2 →
    bs.length = 16 →
    (∀ ea e p, translate s a.toNat = (s, some (ea, e, p)) →
      ((readWord (rawData s p) (rawMeta s p)).cls = .clean →
        exec (.bar2Read a 16) s = .next { s with pcie := { s.pcie with
          readOut := bytesOfNat 16 (readWord (rawData s p) (rawMeta s p)).data, readEp := false } }) ∧
      (pmWp e = false → ∃ t, exec (.bar2Write a bs) s = .next t ∧
        (∀ q, byteOf t q = if p ≤ q ∧ q < p + 16 then bs.getD (q - p) 0 else byteOf s q) ∧
        rawMeta t p = writeMeta (natOfBytes bs) (writeTag s) false % 2 ^ 16 ∧
        (∀ q, q % 16 = 0 → q ≠ p → rawMeta t q = rawMeta s q) ∧
        t = { s with mem := { s.mem with data := t.mem.data, metadata := t.mem.metadata },
                     sealer := { s.sealer with dirtyPages := t.sealer.dirtyPages } })) ∧
    (translate s a.toNat = (s, none) →
      exec (.bar2Read a 16) s = .next { s with pcie := { s.pcie with readOut := List.replicate 16 0xFF, readEp := false } } ∧
      exec (.bar2Write a bs) s = .next { s with pcie := { s.pcie with bar2Discards := s.pcie.bar2Discards + 1 } })

/-- SMBus: a block read returns the fields of R519 while VAUX is up; the Alert Response Address is answered with 0x5C while ALERT_N is
asserted, and releases it (R518 to R520). Rows that complete so: smbusBlockRead, alertResponseAddress. -/
def Obligations.SmbusAnswers : Prop :=
  ∀ s : State,
    (s.pins.vauxUp = true → ∃ t, exec .smbusBlockRead s = .next t ∧ t = { s with pins := { s.pins with smbusOut := t.pins.smbusOut } } ∧
      t.pins.smbusOut.length = 16 ∧ ∀ x, x = natOfBytes t.pins.smbusOut →
        natFld x 5 0 = s.pins.slotId.toNat ∧ natFld x 7 6 = 0 ∧ x.testBit 8 = s.pins.railsOn ∧ x.testBit 9 = s.pins.trip ∧ x.testBit 10 = s.pins.railFault ∧
        x.testBit 11 = s.pow.throttle ∧ x.testBit 12 = s.clk.onOsc ∧ natFld x 15 13 = 0 ∧
        natFld x 23 16 = (if s.pins.railsOn then s.ident.stage else 0) ∧ natFld x 31 24 = bit s.fuses.order512 ∧ natFld x 47 32 = s.pins.vin.toNat ∧
        natFld x 63 48 = s.pins.pinWatts.toNat ∧ natFld x 79 64 = (if s.pins.railsOn then s.pins.tj.toNat else 0) ∧
        natFld x 95 80 = s.pins.tjMax.toNat ∧ natFld x 100 96 = s.pins.alerts.toNat ∧ natFld x 127 101 = 0) ∧
    (s.pins.vauxUp = true → s.pins.alert = true → exec .alertResponseAddress s =
      .next { s with pins := { s.pins with smbusOut := [0x5C], alert := false } }) ∧
    (s.pins.alert = false → exec .alertResponseAddress s = .next s)

/-! ### Resets, supplies, clocks and start-up -/

/-- The six resets: each leaves the inside of the module as R438 says, under its own cause; causes 0 to 2 take the link and the clocks
down, cause 3 keeps the link, cause 4 keeps DMA_BASE and the PCIe side (R398, R438, R445). Rows that complete so: powerOn, perstNAssert,
modResetNAssert, hotReset, functionLevelReset, foremanWatchdog. -/
def Obligations.ResetsClear : Prop :=
  ∀ s : State,
    (s.pins.vauxUp = true → s.pins.pwrGood = false → ∃ t, exec .powerOn s = .next t ∧ atReset s t 0 ∧ t.pins.pwrGood = true ∧
      t.pcie.linkUp = false ∧ t.ident.dmaBase = 0) ∧
    (s.pins.vauxUp = true → s.pins.pwrGood = true → s.pins.perstN = true →
      (∃ t, exec .perstNAssert s = .next t ∧ atReset s t 1 ∧ t.pins.perstN = false ∧ t.pcie.linkUp = false ∧ t.clk.running = false) ∧
      (s.pins.modResetN = true → ∃ t, exec .modResetNAssert s = .next t ∧ atReset s t 2 ∧ t.pins.modResetN = false ∧
        t.pcie.linkUp = false ∧ t.clk.running = false)) ∧
    (s.pcie.linkUp = true → stopped s = false →
      (∃ t, exec .hotReset s = .next t ∧ atReset s t 3 ∧ t.pcie.linkUp = true ∧ t.ident.dmaBase = 0 ∧
        (3 ≤ s.clk.startStep → t.clk.startStep = 3 ∧ timebase t = 0)) ∧
      (∃ t, exec .functionLevelReset s = .next t ∧ atReset s t 3 ∧ t.pcie.linkUp = true ∧ t.ident.dmaBase = 0 ∧
        (3 ≤ s.clk.startStep → t.clk.startStep = 3 ∧ timebase t = 0))) ∧
    (foremanUp s = true → stopped s = false → ∃ t, exec .foremanWatchdog s = .next t ∧ atReset s t 4 ∧
      t.ident.dmaBase = s.ident.dmaBase ∧ t.pcie = s.pcie)

/-- Supplies that fall: power-off and removal of the input lose all state but the fuses (R525); an input out of range, a rail fault and a
thermal trip turn every rail but VAUX off with RAIL_FAULT or the trip latch set and keep the rest (R447, R471). Supplies that rise: VAUX
samples the straps, the rails come on at the end of their ramp, and step 1 of R439 begins once the rails are on and PWR_GOOD, PERST_N and
MOD_RESET_N are high (R439, R517, R524). Rows that complete so: pwrGoodDeassert, vinRemoval, vinOutOfRange, railFault, thermTrip, vauxUp,
railsOn, perstNDeassert, modResetNDeassert. -/
def Obligations.SuppliesMove : Prop :=
  (∀ (v : BitVec 16) (s : State),
    (s.pins.pwrGood = true → ∃ t, exec .pwrGoodDeassert s = .next t ∧ t.pins.pwrGood = false ∧ t.pins.railsOn = false ∧
      t.pins.trip = s.pins.trip ∧ t.pins.railFault = s.pins.railFault ∧ t.mem = MemSt.wiped ∧ t.job = JobSt.none ∧
      t.pcie.linkUp = false ∧ t.clk.running = false ∧ t.fuses = s.fuses) ∧
    (∃ t, exec .vinRemoval s = .next t ∧ t.pins.vauxUp = false ∧ t.pins.railsOn = false ∧ t.pins.trip = false ∧
      t.pins.railFault = false ∧ t.mem = MemSt.wiped ∧ t.job = JobSt.none ∧ t.pcie.linkUp = false ∧ t.clk.running = false ∧
      t.fuses = s.fuses) ∧
    (s.pins.vauxUp = true → (v.toNat < 4000 ∨ 6000 < v.toNat) → s.pins.railsOn = true →
      ∃ t, exec (.vinOutOfRange v) s = .next t ∧ railsFell s t ∧ t.pins.vin = v ∧ t.pins.railFault = true ∧
        t.pins.trip = s.pins.trip) ∧
    (s.pins.railsOn = true → ∃ t, exec .railFault s = .next t ∧ railsFell s t ∧ t.pins.railFault = true ∧ t.pins.trip = s.pins.trip) ∧
    (s.pins.vauxUp = true → 1840 ≤ v.toNat → ∃ t, exec (.thermTrip v) s = .next t ∧ railsFell s t ∧ t.pins.trip = true ∧
      t.pins.railFault = s.pins.railFault)) ∧
  (∀ (st : BitVec 6) (v : BitVec 16) (s : State),
    (s.pins.vauxUp = false → s.pins.pwrGood = false → ∃ t, exec (.vauxUp st v) s = .next t ∧ t = { s with pins := t.pins } ∧
      t.pins.vauxUp = true ∧ t.pins.slotId = st ∧ t.pins.vin = v) ∧
    (s.pins.ramping = true → ∃ t, exec .railsOn s = .next t ∧ t = { s with pins := t.pins, clk := t.clk } ∧
      t.pins.railsOn = true ∧ t.pins.ramping = false ∧
      t.clk = if s.pins.pwrGood ∧ s.pins.perstN ∧ s.pins.modResetN ∧ s.clk.startStep = 0 then ClockSt.initial else s.clk) ∧
    (∃ t, exec .perstNDeassert s = .next t ∧ t = { s with pins := t.pins, clk := t.clk } ∧ t.pins.perstN = true ∧
      t.clk = if s.pins.pwrGood ∧ s.pins.modResetN ∧ s.pins.railsOn ∧ s.clk.startStep = 0 then ClockSt.initial else s.clk) ∧
    (∃ t, exec .modResetNDeassert s = .next t ∧ t = { s with pins := t.pins, clk := t.clk } ∧ t.pins.modResetN = true ∧
      t.clk = if s.pins.pwrGood ∧ s.pins.perstN ∧ s.pins.railsOn ∧ s.clk.startStep = 0 then ClockSt.initial else s.clk))

/-- The PCIe link: it comes up with the rails on and the reset pins high, D3hot and the configuration bits follow their writes, BAR2 is
resized only while memory decode is off, a link that goes down outside a job changes no job, and one that goes down between the steps of a
running job holds it with cause HOST_LOST; a deferred NMI is signalled once on vector 0 (R374, R430, R433, R436, R439, R445). Rows that
complete so: pcieLinkUp, pcieLinkDown, d3hotEntry, d0Return, pcieConfigWrite, nmiDeferredSignal. -/
def Obligations.LinkEvents : Prop :=
  ∀ (on : Bool) (n : Nat) (s : State),
    (s.pins.railsOn = true → s.pins.perstN = true → s.pins.modResetN = true →
      exec .pcieLinkUp s = .next { s with pcie := { s.pcie with linkUp := true } }) ∧
    (s.pcie.linkUp = true →
      exec .d3hotEntry s = .next { s with pcie := { s.pcie with d3hot := true } } ∧
      exec .d0Return s = .next { s with pcie := { s.pcie with d3hot := false } } ∧
      exec (.pcieConfigWrite (.busMaster on)) s = .next { s with pcie := { s.pcie with busMaster := on } } ∧
      exec (.pcieConfigWrite (.memDecode on)) s = .next { s with pcie := { s.pcie with memDecode := on } } ∧
      (36 ≤ n → n ≤ 40 → s.pcie.memDecode = false →
        exec (.pcieConfigWrite (.bar2Size n)) s = .next { s with pcie := { s.pcie with bar2Log2 := n } }) ∧
      (s.pcie.memDecode = true → exec (.pcieConfigWrite (.bar2Size n)) s = .next s) ∧
      (s.job.state < 2 → ∃ t, exec .pcieLinkDown s = .next t ∧
        t = { s with pcie := { s.pcie with linkUp := false }, evq := t.evq, obs := t.obs }) ∧
      (s.job.state = 2 → s.step.active = false → ∃ t, exec .pcieLinkDown s = .next t ∧ t.pcie.linkUp = false ∧
        t.job = { s.job with state := 3, cause := 3, holding := true, dispatches := [] } ∧ t.mem = s.mem ∧ t.fuses = s.fuses)) ∧
    (s.ident.nmiDue = true → canMaster s = true → ∃ t, exec .nmiDeferredSignal s = .next t ∧
      t.pcie.signals = s.pcie.signals ++ [0] ∧ t = { s with ident := { s.ident with nmiDue := false }, pcie := t.pcie })

/-- The clock: a good window at start-up counts, the sixteenth makes the crystal stable and moves the domains to it; a failure of a stable
crystal moves them back to the oscillator, takes every port DOWN and holds a running job with cause CLOCK; a start-up without a stable
crystal goes on after 20 ms (R440, R441, R465 to R467). Rows that complete so: clockMonitorWindow, crystalSilence, crystalTimeout. -/
def Obligations.ClockMonitored : Prop :=
  ∀ (e : Nat) (s : State), s.clk.running = true →
    (973 ≤ e → e ≤ 1075 → s.clk.startStep = 1 ∨ s.clk.startStep = 2 → s.clk.missed = false → s.pins.hotWait = false →
      ∃ t, exec (.clockMonitorWindow e) s = .next t ∧ t.clk.goodWindows = min 16 (s.clk.goodWindows + 1) ∧
        t = { s with clk := t.clk, pins := t.pins } ∧
        (if 15 ≤ s.clk.goodWindows then t.clk.stable = true ∧ t.clk.onOsc = false ∧ t.clk.startStep = 3
         else t.clk.stable = s.clk.stable ∧ t.clk.onOsc = s.clk.onOsc ∧ t.clk.startStep = s.clk.startStep)) ∧
    (s.clk.stable = true → s.clk.onOsc = false →
      ((e < 973 ∨ 1075 < e) → ∃ t, exec (.clockMonitorWindow e) s = .next t ∧ t.clk.onOsc = true ∧ t.clk.lastFail = 0 ∧
        (∀ p, p < 24 → (portAt t p).state = 0) ∧ (s.job.state = 2 → t.job.state = 3 ∧ t.job.cause = 7) ∧ sameMemory s t) ∧
      (∃ t, exec .crystalSilence s = .next t ∧ t.clk.onOsc = true ∧ t.clk.lastFail = 1 ∧
        (∀ p, p < 24 → (portAt t p).state = 0) ∧ (s.job.state = 2 → t.job.state = 3 ∧ t.job.cause = 7) ∧ sameMemory s t)) ∧
    (s.clk.stable = false → s.clk.startStep = 1 ∨ s.clk.startStep = 2 → s.pins.hotWait = false →
      ∃ t, exec .crystalTimeout s = .next t ∧ t.clk.startStep = 3 ∧ t.clk.missed = true ∧ t.clk.onOsc = s.clk.onOsc ∧
        t.clk.dueEvent = some s.clk.lastFail ∧ (s.ident.resetCause < 3 → 20000000 ≤ timebase t) ∧ t.mem = s.mem ∧ t.job = s.job)

/-- Start-up: training ends in the wipe at the rate CONFIG asked for; the wipe leaves memory clear, and STAGE 0, or 3 where a channel
failed; a Foreman whose image was verified starts: STAGE 2, FW_VERSION, one EV_READY (R231, R232, R253, R439, R441). Rows that complete so:
lpddr6TrainingComplete, wipeComplete, foremanStart. -/
def Obligations.StartUpGoesOn : Prop :=
  ∀ (failed : BitVec 64) (s : State), stopped s = false →
    (s.clk.startStep = 3 → exec (.lpddr6TrainingComplete failed) s = .next { s with
      clk := { s.clk with startStep := 4 }, mem := { MemSt.wiped with wiping := true },
      ident := { s.ident with rate := s.ident.nextRate, chFail := failed } }) ∧
    (s.mem.wiping = true → (∀ m, m < 4 → (boxAt s m).inflight ≠ some .lifecycle) → s.ident.resetCause ≠ 5 →
      ∃ t, exec .wipeComplete s = .next t ∧ t.ident = { s.ident with stage := if s.ident.chFail = 0 then 0 else 3 } ∧
        t = { s with mem := MemSt.wiped, ident := t.ident, clk := { s.clk with startStep := t.clk.startStep } }) ∧
    (s.ident.stage = 0 → s.ident.verified = true → bitOf s.obs.mask 0 = false → s.clk.dueEvent = none →
      ∃ t, exec .foremanStart s = .next t ∧ t.ident = { s.ident with stage := 2, verified := false, fwVersion := s.ident.imageVersion } ∧
        t.mem = s.mem ∧ t.job = s.job ∧ t.clk = { s.clk with startStep := 7 } ∧
        (if s.evq.enable = true ∧ evqFull s.evq = false ∧ canMaster s = true ∧ s.evq.unreported = 0 then t.evq.tail = s.evq.tail + 1
         else t.evq.tail = s.evq.tail ∨ s.evq.unreported ≠ 0))

/-! ### Ports and frames -/

/-- Ports: training ends UP with the credits of R315; loss of alignment, or a frame replayed 8 times, takes an UP port DOWN, and its frames
wait for another slot (R310, R314, R315, R318; that it trains again at once is the model's reading, log 90). Rows that complete so:
portTrainingComplete, pcsAlignmentLoss, replayLimit. -/
def Obligations.PortsMove : Prop :=
  ∀ (p : Fin 24) (s : State),
    (portsTrain s = true → (portAt s p.val).state ≠ 2 → ∃ t, exec (.portTrainingComplete p) s = .next t ∧
      portAt t p.val = { PortSt.down with state := 2, credits := [4096, 2048, 512, 1536], wire := (portAt s p.val).wire } ∧
      (∀ q, q ≠ p.val → portAt t q = portAt s q) ∧ t.mem = s.mem ∧ t.job = s.job) ∧
    (portUp s p.val = true →
      (∃ t, exec (.pcsAlignmentLoss p) s = .next t ∧ (portAt t p.val).state = bit (portsTrain s) ∧ (portAt t p.val).unacked = [] ∧
        (portAt t p.val).wasUp = true ∧ (∀ q, q ≠ p.val → portAt t q = portAt s q) ∧
        t.fab.txq.length = ((portAt s p.val).unacked.filter fun u => u.vc < 4).length + s.fab.txq.length ∧
        t.mem = s.mem ∧ t.job = s.job) ∧
      ((∃ u ∈ (portAt s p.val).unacked, 8 ≤ u.replays) → ∃ t, exec (.replayLimit p) s = .next t ∧ (portAt t p.val).state = bit (portsTrain s) ∧
        (portAt t p.val).unacked = [] ∧ (∀ q, q ≠ p.val → portAt t q = portAt s q) ∧ t.mem = s.mem ∧ t.job = s.job)) ∧
    ((∀ u ∈ (portAt s p.val).unacked, u.replays < 8) → exec (.replayLimit p) s = .next s)

/-- A port sends the first waiting frame of the virtual channel it serves, with the next sequence number, the credits it owes and the CRC
of R314, holds it until acknowledged, and spends its credits; credits owed go out in a LINK frame when nothing else is due (R313 to R315).
Rows that complete so: frameSend, creditFrameTimer. -/
def Obligations.FramesSent : Prop :=
  ∀ (f : Frame) (p : Fin 24) (vc : Nat) (rest : List TxFrame) (s : State), stopped s = false →
    (s.fab.txq = ⟨f, some p.val⟩ :: rest → (∀ x ∈ rest, x.port.isSome = true) → vcOf (fType f) = some vc → nextVc s p.val = some vc →
      ∃ t, exec (.frameSend 0) s = .next t ∧ t.fab.txq = rest ∧
        (portAt t p.val).nextSeq = (portAt s p.val).nextSeq + 1 ∧
        (portAt t p.val).credits.getD vc 0 = (portAt s p.val).credits.getD vc 0 - (fLen f + 1) ∧
        (∃ g, (portAt t p.val).wire = [g] ∧ (portAt t p.val).unacked = (portAt s p.val).unacked ++ [⟨g, vc, 0⟩] ∧
          g.header = f.header ∧ g.lines = f.lines ∧ tLseq g = (portAt s p.val).nextSeq ∧ tAck g = (portAt s p.val).lastIn) ∧
        (∀ q, q ≠ p.val → portAt t q = portAt s q) ∧ onlyFabric s t) ∧
    ((portAt s p.val).state = 2 → (portAt s p.val).owed.any (· != 0) = true → nextVc s p.val = none →
      (portAt s p.val).unacked.length < 65536 →
      ∃ t, exec (.creditFrameTimer p) s = .next t ∧ t.fab.txq = s.fab.txq ∧
        (portAt t p.val).owed = (portAt s p.val).owed.map (fun o => o - 255) ∧
        (∃ g, (portAt t p.val).wire = [g] ∧ fType g = 0xF ∧ g.lines = [] ∧ tAck g = (portAt s p.val).lastIn) ∧
        (∀ q, q ≠ p.val → portAt t q = portAt s q) ∧ onlyFabric s t)

/-- An arriving frame of any row does nothing at a port that is not UP or out of sequence; one that fails its CRC is counted and a
replay awaited; one for another module is counted, once the link layer has taken it (R314, R316). -/
def Obligations.FrameRefused : Prop :=
  ∀ (c : Instr) (p : Fin 24) (f : Frame) (s : State), frameOf c = some (p, f) →
    (portUp s p.val = false ∨ stopped s = true → exec c s = .next s) ∧
    (portUp s p.val = true → stopped s = false →
      (frameCrc f ≠ tCrc f → ∃ t, exec c s = .next t ∧ portAt t p.val = { portAt s p.val with awaiting := true } ∧
        counterAt t (0xE70 + p.val) = counterAt s (0xE70 + p.val) + 1 ∧ (∀ q, q ≠ p.val → portAt t q = portAt s q) ∧
        t = { s with fab := { s.fab with ports := t.fab.ports }, obs := { s.obs with counters := t.obs.counters } }) ∧
      (frameCrc f = tCrc f → tLseq f ≠ (portAt s p.val).lastIn + 1 → exec c s = .next s) ∧
      (onLink s p.val f = true → fType f ≠ 0xF → fDest f ≠ ownAddr s → ∃ t, exec c s = .next t ∧ (portAt t p.val).lastIn = tLseq f ∧
        counterAt t 0xEC0 = counterAt s 0xEC0 + 1 ∧ onlyFabric s t))

/-- A LINK frame in sequence takes off the frames that it acknowledges and adds its credits, and nothing else changes but the counters
(R314, R315); a credit return sets what the producer of a stage queue has had back (R342). Rows that complete so: linkFrame, creditReturn. -/
def Obligations.CreditsReturned : Prop :=
  ∀ (p : Fin 24) (f : Frame) (s : State),
    (onLink s p.val f = true → fType f = 0xF → ∃ t, exec (.linkFrame p f) s = .next t ∧
      portAt t p.val = { portAt s p.val with
        unacked := (portAt s p.val).unacked.filter fun u => !seqLe (tLseq u.frame) (tAck f)
        credits := (List.range 4).map fun v => (portAt s p.val).credits.getD v 0 + tCredit f v
        lastIn := tLseq f, awaiting := false } ∧
      (∀ q, q ≠ p.val → portAt t q = portAt s q) ∧ t.fab = { s.fab with ports := t.fab.ports } ∧ onlyFabric s t) ∧
    (∀ q, reaches s p.val f = true → fType f = 2 → fOp f = 0xFFFFFFFE → mapFind s.fab.queues (fTag f % 64) = some q →
      sqValid q.record = true → sqConsumes q.record = false → sqPeer q.record = fSrc f →
      laterGen (BitVec.ofNat 32 (fOffset f)) q.received = true → ∃ t, exec (.creditReturn p f) s = .next t ∧
        mapFind t.fab.queues (fTag f % 64) = some { q with received := BitVec.ofNat 32 (fOffset f) } ∧
        (∀ k, k ≠ fTag f % 64 → mapFind t.fab.queues k = mapFind s.fab.queues k) ∧ onlyFabric s t)

/-- Frames of the collective engine: a data or tag-only frame joins its message, a vote is noted for its member, a vote of another step is
counted, and a stage queue's lines are marked filled in the slot that they name (R321, R325, R335, R338, R342, R537). Rows that complete
so: collFrame, tagOnlyFrame, voteFrame, stageQueueDataFrame. -/
def Obligations.GroupFramesTaken : Prop :=
  ∀ (p : Fin 24) (f : Frame) (s u : State), u = linked s p.val f → reaches s p.val f = true →
    (fType f = 1 → fPhase f < 4 → fromMember s f = true → enginesRun s = false → ∃ t, exec (.collFrame p f) s = .next t ∧
      findMsg t (fSrc f) (fGroup f) (fPhase f) (fOpNum f) = some (addFrame ((findMsg s (fSrc f) (fGroup f) (fPhase f) (fOpNum f)).getD
        (RxMsg.empty (fSrc f) (fGroup f) (fPhase f) (fOpNum f))) f).1 ∧ t.mem = s.mem ∧ t.job = s.job ∧ t.step = s.step) ∧
    (fType f = 2 → fPhase f = 0 → fOp f ≠ 0xFFFFFFFE → collIs s (fOpNum f) cVote = false → fromMember s f = true →
      enginesRun s = false → ∃ t, exec (.tagOnlyFrame p f) s = .next t ∧
      (∃ m, findMsg t (fSrc f) (fGroup f) 0 (fOpNum f) = some m ∧ fTag f ∈ m.tags) ∧ t.mem = s.mem ∧ t.job = s.job ∧ t.step = s.step) ∧
    (fType f = 2 → fPhase f = 0 → collIs s (fOpNum f) cTagonly = false → fromMember s f = true →
      (fOffset f ≠ s.ident.jobStep.toNat % 2 ^ 32 → ∃ t, exec (.voteFrame p f) s = .next t ∧
        counterAt t 0xEC5 = counterAt u 0xEC5 + 1 ∧ t.fab = u.fab ∧ t.step = s.step) ∧
      (fOffset f = s.ident.jobStep.toNat % 2 ^ 32 → mapFind s.fab.votes (fSrc f) = none → ∀ v,
        v = { u with fab := { u.fab with votes := mapSet s.fab.votes (fSrc f) ((fTag f).testBit 0) } } →
        (s.step.phase ≠ 0 ∨ voteResult v = none → exec (.voteFrame p f) s = .next v) ∧
        (∀ b, s.step.active = true → s.step.phase = 0 → (voteOp s).isSome = true → statsWritten s = true → s.fab.stale = [] →
          voteResult v = some b → ∃ t, exec (.voteFrame p f) s = .next t ∧ t.step.vote = some b ∧ 1 ≤ t.step.phase))) ∧
    (∀ q n, fType f = 0 → jobExists s = true → mapFind s.fab.queues (fTag f % 64) = some q → sqValid q.record = true →
      sqConsumes q.record = true → sqPeer q.record = fSrc f → fOffset f + fLen f ≤ sqLines q.record →
      sqSend q (fTag f / 64) = some n → ∃ t, exec (.stageQueueDataFrame p f) s = .next t ∧
        ∃ q', mapFind t.fab.queues (fTag f % 64) = some q' ∧ q'.released = q.released ∧ ∃ ls total, mapFind q'.filling n = some (ls, total) ∧
          (∀ i, i < fLen f → fOffset f + i ∈ ls) ∧ (fLast f = true → total = some (fOffset f + fLen f)))

/-- The barrier: a member's frame is kept as its last, SECURED and REPLAY are noted for it; LOST holds the job with cause PEER; a module
that waits sends its own latest frame again to every other member (R360, R361, R373). Rows that complete so: barrierFrame, barrierResend. -/
def Obligations.BarrierFrames : Prop :=
  ∀ (p : Fin 24) (f : Frame) (g : GroupRec) (s : State), barrierGroup s = some g →
    (reaches s p.val f = true → fType f = 2 → fOp f = 0xFFFFFFFF → jobExists s = true → fGroup f = s.job.barrier →
      (gGen g).toNat = fGen f → (memberIndex g (fSrc f)).isSome = true →
      (bitOf (BitVec.ofNat 32 (fTag f)) 2 = true → mapFind s.fab.barrier (fSrc f) ≠ some (fOffset f, BitVec.ofNat 32 (fTag f)) →
        s.job.state = 2 → ∃ t, exec (.barrierFrame p f) s = .next t ∧ t.job.state = 3 ∧ t.job.cause = 1 ∧
          mapFind t.fab.barrier (fSrc f) = some (fOffset f, BitVec.ofNat 32 (fTag f)) ∧ sameMemory s t) ∧
      (fTag f % 8 < 2 → s.step.barrier = 0 → ∃ t, exec (.barrierFrame p f) s = .next t ∧
        mapFind t.fab.barrier (fSrc f) = some (fOffset f, BitVec.ofNat 32 (fTag f)) ∧ t.mem = s.mem ∧ t.job = s.job ∧ t.step = s.step)) ∧
    (∀ off tag, waitsAtBarrier s = true → stopped s = false → s.fab.ownBarrier = some (off, tag) →
      (∀ a ∈ otherMembers g, a ≠ ownAddr s) → ∃ t, exec .barrierResend s = .next t ∧
        t.fab.txq.length = s.fab.txq.length + (otherMembers g).length ∧ t = { s with fab := t.fab })

/-- SEAL frames at the buddy: an item's lines are stored in shadow under the origin's generation, a frame that is not accepted is counted
as stale, a marker is kept, COMMIT drops the retained copies, DISCARD goes back to the generation it names, RESERVE is answered (R367 to
R370). Rows that complete so: sealPageFrame, sealJournalFrame, sealRecordFrame, sealMarkerFrame, sealCommitFrame, sealDiscardFrame,
sealReserveFrame. -/
def Obligations.BuddyStores : Prop :=
  ∀ (c : Instr) (k : Nat) (p : Fin 24) (f : Frame) (s u : State), u = linked s p.val f → reaches s p.val f = true →
    fType f = 3 → fPhase f = k →
    (k < 3 → c = [Instr.sealPageFrame p f, .sealJournalFrame p f, .sealRecordFrame p f].getD k (.sealPageFrame p f) →
      (fPhase f = 1 ∨ awaits s f = false) →
      (fSrc f = originOf s → buddyAccepts s (BitVec.ofNat 32 (fTag f)) = true → s.buddy.shadowGen = some (BitVec.ofNat 32 (fTag f)) →
        itemDone (addLines (findItem s.buddy.shadow k (fOpNum f)) f).1 = false → ∃ t, exec c s = .next t ∧
          t.buddy = { s.buddy with shadow := putItem s.buddy.shadow (addLines (findItem s.buddy.shadow k (fOpNum f)) f).1 } ∧
          t.fab = u.fab ∧ t.mem = s.mem ∧ t.job = s.job) ∧
      (fSrc f ≠ originOf s ∨ buddyAccepts s (BitVec.ofNat 32 (fTag f)) = false → ∃ t, exec c s = .next t ∧
        counterAt t 0xEC4 = counterAt u 0xEC4 + 1 ∧ t = { u with obs := t.obs })) ∧
    (k = 3 → fSrc f = originOf s → buddyAccepts s (BitVec.ofNat 32 (fTag f)) = true → s.buddy.shadowGen = some (BitVec.ofNat 32 (fTag f)) →
      (s.buddy.shadow.filter itemDone).length < fOffset f →
      exec (.sealMarkerFrame p f) s = .next { u with buddy := { s.buddy with marker := some (fOffset f) } }) ∧
    (k = 6 → fSrc f = originOf s → flippedIn s = some (BitVec.ofNat 32 (fTag f)) →
      exec (.sealCommitFrame p f) s = .next { u with buddy := { s.buddy with retained := none } }) ∧
    (∀ b, k = 7 → fSrc f = originOf s → (flippedIn s).isSome = true → discardTo s.buddy (BitVec.ofNat 32 (fTag f)) = some b →
      b.s = some (BitVec.ofNat 32 (fTag f)) ∧ exec (.sealDiscardFrame p f) s = .next { u with buddy := b }) ∧
    (k = 10 → fSrc f = originOf s → fSrc f ≠ buddyOf s → fSrc f ≠ ownAddr s → ∃ t, exec (.sealReserveFrame p f) s = .next t ∧
      t.buddy = { s.buddy with reserveTag := some (BitVec.ofNat 32 (fTag f)) } ∧ t.fab.txq.length = u.fab.txq.length + 1 ∧
      t.mem = s.mem ∧ t.job = s.job)

/-- SEAL frames at the origin and at a spare: ACK clears its item, the buddy's reply to RESERVE is kept, SECURED for the generation in
shipment secures the seal and starts a job that was in SETUP, PULLED gives a pull its count, and a PULL that no PULL_SERVE allows is not
answered (R351, R357, R359, R370, R371, R381). Rows that complete so: sealAckFrame, sealReserveFrame, sealSecuredFrame, sealPulledFrame,
sealPullFrame. -/
def Obligations.OriginHears : Prop :=
  ∀ (k : Nat) (p : Fin 24) (f : Frame) (s u : State), u = linked s p.val f → reaches s p.val f = true → fType f = 3 → fPhase f = k →
    (k = 4 → fSrc f = buddyOf s → s.sealer.gen.toNat = fTag f → exec (.sealAckFrame p f) s = .next { u with sealer := { s.sealer with
      unacked := s.sealer.unacked.filter (· != (fOffset f / 2 ^ 28, fOffset f % 2 ^ 28)) } }) ∧
    (k = 10 → fSrc f = buddyOf s → fSrc f ≠ originOf s →
      exec (.sealReserveFrame p f) s = .next { u with sealer := { s.sealer with reserve := some (fOffset f) } }) ∧
    (k = 5 → fSrc f = buddyOf s → s.sealer.phase = 2 → s.sealer.gen.toNat = fTag f → s.step.barrier = 1 → s.job.state = 1 →
      s.job.holdDue = false → s.step.active = false → ∃ t, exec (.sealSecuredFrame p f) s = .next t ∧ t.job.state = 2 ∧ t.sealer.phase = 3 ∧
        t.sealer.lastSealed = some s.sealer.gen ∧ t.mem.data = s.mem.data ∧ t.fuses = s.fuses) ∧
    (∀ r, k = 9 → fSrc f = buddyOf s → s.restore = some r → r.pull = true → r.target.toNat = fTag f →
      (s.sealer.incoming.filter itemDone).length < fOffset f →
      exec (.sealPulledFrame p f) s = .next { u with restore := some { r with expected := some (fOffset f) } }) ∧
    (k = 8 → fOpNum f = 0 → s.buddy.serve ≠ some (fSrc f, BitVec.ofNat 32 (fTag f)) → exec (.sealPullFrame p f) s = .next u) ∧
    (∀ b, k = 8 → fOpNum f = 0 → s.buddy.serve = some (fSrc f, BitVec.ofNat 32 (fTag f)) →
      discardTo s.buddy (BitVec.ofNat 32 (fTag f)) = some b → ∃ t, exec (.sealPullFrame p f) s = .next t ∧ t.buddy = b ∧
        t.mem = s.mem ∧ t.job = s.job ∧ t.sealer = s.sealer)

/-- Timeouts: 10 ms without a route raise EV_NO_ROUTE once for a destination; a module waited on and silent for LOST_TIMEOUT holds a
running job with cause PEER; an event queue full for HOST_TIMEOUT loses the host (R319, R373, R374). Rows that complete so: noRouteTimeout,
lostTimeout, hostTimeout. -/
def Obligations.TimeoutsExpire : Prop :=
  ∀ (d : BitVec 16) (t0 : Nat) (s : State), stopped s = false →
    (mapFind s.fab.noRoute d.toNat = some (t0, none) → s.clk.running = true → ∃ t, exec (.noRouteTimeout d) s = .next t ∧
      t0 + 10000000 ≤ timebase t ∧ mapFind t.fab.noRoute d.toNat = some (t0, some (timebase t)) ∧
      (∀ k, k ≠ d.toNat → mapFind t.fab.noRoute k = mapFind s.fab.noRoute k) ∧ t.mem = s.mem ∧ t.job = s.job ∧
      exec (.noRouteTimeout d) t = .next t) ∧
    (jobExists s = true → lostDeclared s d.toNat = false → d.toNat ∈ awaitedPeers s → s.job.state = 2 → s.restore = none →
      ∃ t, exec (.lostTimeout d) s = .next t ∧ t.job.state = 3 ∧ t.job.cause = 1 ∧ t.job.dispatches = [] ∧ sameMemory s t) ∧
    (s.evq.fullSince = some t0 → evqFull s.evq = true → s.job.state = 2 → s.step.active = false → s.clk.running = true →
      ∃ t, exec .hostTimeout s = .next t ∧ t.job = { s.job with state := 3, cause := 3, holding := true, dispatches := [] } ∧
        t0 + sdHostTimeout s.job.sealDesc * 1000000000 ≤ timebase t ∧ t.evq.fullSince = none ∧ t.mem = s.mem)

/-! ### Steps, collectives and the engines -/

/-- A step begins with the oldest dispatch once the barrier before it is complete: its number, plan, cursor and start, nothing of the step
before; a descriptor of another step's number holds the job after the boundary (R276, R418). An operation whose waits are over starts, with
its steered formats, and a tag-only gather as the gather policy says (R12, R128, R338, R412). Rows that complete so: stepBegin,
operationStart. -/
def Obligations.StepAndOperationBegin : Prop :=
  ∀ (d : Dispatch) (rest : List Dispatch) (op : Nat) (s : State),
    (stopped s = false → s.job.state = 2 → s.step.active = false → s.step.barrier = 0 → s.job.dispatches = d :: rest →
      ∃ t, exec .stepBegin s = .next t ∧ t.step.active = true ∧ t.step.number = d.step ∧ t.step.plan = d.plan ∧
        t.step.cursor = d.cursor ∧ t.step.upd = d.upd ∧ t.step.start = timebase s ∧ t.ident.jobStep = d.step ∧
        t.job.dispatches = rest ∧ t.job.lastBegun = d.step ∧ t.ident.committed = s.ident.committed ∧ (t.step.phase = 0 → sameMemory s t) ∧
        ((∃ x ∈ d.upd, udStep x ≠ d.step.toNat) → t.job.dueHold = 4)) ∧
    (opReady s op = true → ∃ t, exec (.operationStart op) s = .next t ∧ 1 ≤ mapGet t.step.ops op 0 ∧
      (opRun t op).entry = gatherPolicy s (steerEntry s (steeredFmt s) (planEntry s s.step.plan op)) ∧ t.fuses = s.fuses ∧ t.ident = s.ident)

/-- A collective that has started sends once and is under way; a send on a stage queue takes one credit or waits for one; a collective with
everything written completes its operation (R326, R341). Rows that complete so: collectiveStart, stageQueueSend, collectiveComplete. -/
def Obligations.CollectivesRun : Prop :=
  ∀ (op : Nat) (s : State), enginesRun s = true → eKind (stepOp s op) = 2 →
    (mapGet s.step.ops op 0 = 1 → collStage s op = 0 → cColl (eColl (stepOp s op)) < 5 →
      ∃ t, exec (.collectiveStart op) s = .next t ∧ 1 ≤ collStage t op ∧ t.step.ops = s.step.ops ∧ t.fuses = s.fuses) ∧
    (∀ q, cColl (eColl (stepOp s op)) = 5 → mapFind s.fab.queues (cQueue (eColl (stepOp s op))) = some q →
      (mapGet s.step.ops op 0 = 1 → collStage s op = 0 →
        (sqCredit q = true → ∃ t, exec (.collectiveStart op) s = .next t ∧ collStage t op = 4 ∧
          mapFind t.fab.queues (cQueue (eColl (stepOp s op))) = some { q with begun := q.begun + 1 } ∧ t.step.ops = s.step.ops) ∧
        (sqCredit q = false → ∃ t, exec (.collectiveStart op) s = .next t ∧ collStage t op = 1 ∧ t.fab = s.fab ∧ t.mem = s.mem)) ∧
      (collStage s op = 1 → sqCredit q = true → ∃ t, exec (.stageQueueSend op) s = .next t ∧ collStage t op = 4 ∧
        mapFind t.fab.queues (cQueue (eColl (stepOp s op))) = some { q with begun := q.begun + 1 } ∧ t.step.ops = s.step.ops) ∧
      (collStage s op = 1 → sqCredit q = false → exec (.stageQueueSend op) s = .next s)) ∧
    ((mapFind s.eng.colls op).isSome = true → (∀ x ∈ s.eng.colls, x.2.stage = 4) →
      ∃ t, exec (.collectiveComplete op) s = .next t ∧ mapGet t.step.ops op 0 = 2 ∧ collStage t op = 0 ∧ t.fuses = s.fuses)

/-- Looms: a free loom takes the unit that R184 names, unless dispatch is paused; a delivered wavefront enters the shadow; a loaded shadow
becomes active; a handshake moves its cell on and joins the column's partial; a finished partial in order is folded, and a duplicate is
discarded and counted; the home workshop takes a late stolen unit back (R51, R100, R101, R184, R188, R191, R192). Rows that complete so:
loomTakeUnit, loadWavefront, shadowSwap, cellHandshake, partialArrival, reclaimWindowExpiry. -/
def Obligations.LoomsWork : Prop :=
  ∀ (l : Fin 512) (row col : Fin 64) (s : State), enginesRun s = true →
    (∀ u v k, paused s = false → (loomAt s l.val).shadow = none → loomOn s l.val = true → nextUnit s l.val = some (u, v, k) →
      ∃ t, exec (.loomTakeUnit l) s = .next t ∧ (loomAt t l.val).shadow = some ⟨u, u.kt, u.pass, 0, 0⟩ ∧
        t.eng.taken = s.eng.taken ++ [⟨u, l.val, k, timebase s⟩] ∧ subqAt t v = (subqAt s v).erase u ∧ (tileOf t u).isSome = true ∧ t.mem = s.mem ∧
        t.step.ops = s.step.ops) ∧
    (paused s = true → exec (.loomTakeUnit l) s = .next s) ∧
    (∀ ld, (loomAt s l.val).shadow = some ld → ld.waves < 16 → wavefrontReady s l.val ld ld.waves = true →
      exec (.loadWavefront l) s = .next (setLoom s l.val { loomAt s l.val with shadow := some { ld with waves := ld.waves + 1 } })) ∧
    (∀ ld t0, (loomAt s l.val).shadow = some ld → (loomAt s l.val).active = none → ld.waves = 16 →
      t0 = setLoom s l.val { loomAt s l.val with
        active := some ld, cells := [], loadWait := false, shadow := followingLoad (unitEntry s ld.unit) ld } →
      streamed t0 l.val ld = false → exec (.shadowSwap l) s = .next t0) ∧
    (∀ ld v n, (loomAt s l.val).active = some ld → cellPlace s l.val ld row.val col.val = (v, n) →
      colActive s ld.unit col.val = true → rowActive (unitEntry s ld.unit) ld.kt ld.load row.val = true → v < unitVecs s ld.unit →
      vectorHere s l.val ld v = true → (opLmode (unitEntry s ld.unit) = true → aboveDone s l.val ld v row.val col.val = true) →
      skewOk s l.val ld v = true →
      ∃ t, exec (.cellHandshake l row col) s = .next t ∧ counterAt t l.val = counterAt s l.val + 1 ∧ t.mem = s.mem ∧
        ((loomAt t l.val).active = some ld →
          mapGet (loomAt t l.val).cells (64 * row.val + col.val) 0 =
            (if tokens s l.val ld v row.val ≤ n + 1 then 8 * (v + 1) else 8 * v + n + 1) ∧
          mapFind (loomAt t l.val).parts (64 * v + col.val) =
            some (if tokens s l.val ld v row.val ≤ n + 1 then foldRow s l.val ld v row.val col.val else partOf s l.val ld v col.val))) ∧
    (∀ u ps x, (loomAt s l.val).out = some (u, ps) → (loomAt s l.val).active = none → tileOf s u = some x →
      (unitOrd s u = x.next → x.held = [] → ∃ t, exec (.partialArrival l) s = .next t ∧ (loomAt t l.val).out = none ∧
        tileOf t u = some { x with acc := foldParts (opLmode (unitEntry s u)) x.acc ps, next := x.next + 1, since := timebase s } ∧
        (∀ k ∈ t.eng.taken, k.unit ≠ u) ∧ t.mem = s.mem) ∧
      (unitOrd s u < x.next → ∃ t, exec (.partialArrival l) s = .next t ∧ (loomAt t l.val).out = none ∧ t.eng.tiles = s.eng.tiles ∧
        counterAt t (0xE00 + guildOf (unitHome s u)) = counterAt s (0xE00 + guildOf (unitHome s u)) + 1)) ∧
    (∀ k x, (loomAt s l.val).shadow = none → (loomAt s l.val).active = none → loomOn s l.val = true →
      reclaimable s l.val = some (k, x) → s.clk.running = true → ∃ t, exec (.reclaimWindowExpiry l) s = .next t ∧
        (loomAt t l.val).shadow = some ⟨k.unit, k.unit.kt, k.unit.pass, 0, 0⟩ ∧ ⟨k.unit, l.val, 0, timebase t⟩ ∈ t.eng.taken ∧
        x.since + reclaimNs s ≤ timebase t ∧ t.mem = s.mem)

/-- The output stage converts the next element of the finished tile that R115 names, and the tile closes with its last; a lane of the
vector unit does its next element, or its operation is over (R111, R115, R176, R190). Rows that complete so: outputStageConvert,
vectorElement. -/
def Obligations.ElementsWritten : Prop :=
  ∀ (l : Fin 512) (w : Fin 128) (lane : Fin 64) (s : State), enginesRun s = true →
    (∀ op k x, outputWork s l.val = some (op, k) → tileOf s ⟨op, k, 0, 0⟩ = some x → elementHere s op k x.conv = true →
      (x.conv + 1 < tileCols (stepOp s op) k * tileVecsOf (stepOp s op) k → ∃ t, exec (.outputStageConvert l) s = .next t ∧
        (∃ y, tileOf t ⟨op, k, 0, 0⟩ = some y ∧ y.conv = x.conv + 1 ∧ y.acc = x.acc) ∧ t.step.ops = s.step.ops) ∧
      (tileCols (stepOp s op) k * tileVecsOf (stepOp s op) k ≤ x.conv + 1 → ∃ t, exec (.outputStageConvert l) s = .next t ∧
        tileOf t ⟨op, k, 0, 0⟩ = none)) ∧
    (∀ op e, laneWork s w.val lane.val = some (op, e) →
      vecWaits s op w.val lane.val e = false →
      ∃ t, exec (.vectorElement w lane) s = .next t ∧ t.fuses = s.fuses ∧
        (laneAt t op w.val lane.val = laneAt s op w.val lane.val + 1 ∨ mapGet t.step.ops op 0 = 2))

/-- Streams: the next read of a run is issued as one transfer; a completed transfer is outstanding no more; a run that waited for data
takes the buffer's oldest element; a circular wait spills a full buffer, or, with no page left, makes the step invalid and holds the job
with cause SPILL; the Scrivener copies a protected page that a write waits for, or leaves it uncopied (R212, R213, R218, R221, R222, R363,
R365). Rows that complete so: transferIssue, transferComplete, streamResume, circularWaitDetect, wpPageCopy. -/
def Obligations.StreamsMove : Prop :=
  ∀ (c : Fin 768) (slot : Fin 4) (i : Nat) (page : Fin 524288) (s : State),
    (enginesRun s = true →
      (∀ r bit w x, outstanding (carterAt s c.val) < 8 → currentRun s c.val slot.val = some r → r.wait = none → runClass r < 2 →
        r.rd < runLen r → (∀ p, gatherOf r p = none) → readPlace r r.rd = .memory bit w x →
        ∃ t n lo hi, exec (.transferIssue c slot) s = .next t ∧ 1 ≤ n ∧
          (carterAt t c.val).xfers = (carterAt s c.val).xfers ++ [⟨slot.val, r.op, r.unit, false, r.rd, n, none, lo, hi, s.eng.issued⟩] ∧
          t.eng.issued = s.eng.issued + 1 ∧ (t.step.phase = s.step.phase → t.mem = s.mem)) ∧
      (8 ≤ outstanding (carterAt s c.val) → exec (.transferIssue c slot) s = .next s) ∧
      (∀ x, ((carterAt s c.val).xfers.filter fun k => k.data.isNone)[i]? = some x →
        (x.write = true → lineBusy s x.lo x.hi x.seq = false) →
        ∃ t, exec (.transferComplete c i) s = .next t ∧ outstanding (carterAt t c.val) < outstanding (carterAt s c.val) ∧
          t.fuses = s.fuses) ∧
      (∀ r b since e es, currentRun s c.val slot.val = some r → r.wait = some (b, false, since) → runClass r < 2 → b = wDrain0 r.img →
        r.rd < runLen r → gatherOf r (posAt r.ranges r.rd) = none → readPlace r r.rd = .buffer → r.given = r.rd →
        (bufAt s b).elems = e :: es →
        ∃ t, exec (.streamResume c slot) s = .next t ∧ (bufAt t b).elems = es ∧ (bufAt t b).spill = (bufAt s b).spill ∧
          (t.step.phase = s.step.phase → t.mem = s.mem)) ∧
      (∀ r b since, r ∈ circularSet (liveRuns s) 64 (waitingRuns s) → r.2.2.wait = some (b, true, since) → (bufAt s b).spilled = false →
        (spillUsed s + 1 ≤ s.job.spillPages → ∃ t b', exec .circularWaitDetect s = .next t ∧ (bufAt s b').spilled = false ∧
          (bufAt t b').spilled = true ∧ (bufAt t b').elems = (bufAt s b').elems ∧ t.job = s.job ∧ t.mem = s.mem) ∧
        (s.job.spillPages < spillUsed s + 1 → s.job.state = 2 → ∃ t, exec .circularWaitDetect s = .next t ∧ t.step.invalid = true ∧
          t.job.state = 3 ∧ t.job.cause = 6 ∧ sameMemory s t))) ∧
    (∀ ea e, stopped s = false → writeWaits s page.val = true → pageEntry page.val = some ea → lookupEntry s ea = (s, e) → pmWp e = true →
      (stagingRoom s 1 = true → ∃ t image, exec (.wpPageCopy page) s = .next t ∧ t.sealer = { s.sealer with
        copies := s.sealer.copies ++ [⟨BitVec.ofNat 32 (pmSealgen e), page.val, none, image⟩] } ∧
        ((readFrame s (pmHome e) (pmFrame e)) = (s, []) → image = frameImage s (pmHome e) (pmFrame e)) ∧
        t.job = s.job ∧ t.step = s.step) ∧
      (stagingRoom s 1 = false → ∃ t, exec (.wpPageCopy page) s = .next t ∧ t.sealer.copies = s.sealer.copies ∧
        t.sealer.uncopied = s.sealer.uncopied ++ [(page.val, pmSealgen e)] ∧ t.job = s.job ∧ t.step = s.step))

/-- Mills: a prologue is done once, a record moves its mill's place on and takes the draws of R269, and the age sweep moves on by a row
(R268, R269, R271, R272, R281). Rows that complete so: millPrologue, millRecord. -/
def Obligations.MillsWork : Prop :=
  ∀ (g : Fin 16) (m : Fin 64) (s : State), s.step.phase = 1 → stopped s = false →
    (∀ i, millWork s (4 * g.val) = .prologue i → ∃ t, exec (.millPrologue g) s = .next t ∧
      t.step.prologues = s.step.prologues ++ [i] ∧ t.step.mills = s.step.mills ∧ t.step.number = s.step.number) ∧
    (∀ i k e, millWork s m.val = .record i k e → ∃ t, exec (.millRecord m) s = .next t ∧
      mapGet t.step.mills m.val (0, 0) = (i, positionAfter (updAt s i) k e) ∧
      (∀ n, n ≠ m.val → mapGet t.step.mills n (0, 0) = mapGet s.step.mills n (0, 0)) ∧
      drawCount t (0xA000 + m.val) 0 = (drawCount s (0xA000 + m.val) 0 + recordDraws (updAt s i) k) % 2 ^ 64 ∧
      t.step.prologues = s.step.prologues) ∧
    (∀ h r, millWork s m.val = .sweep h r → ∃ t, exec (.millRecord m) s = .next t ∧
      (mapGet t.step.mills m.val (0, 0)).1 = s.step.upd.length ∧ t.job.draws = s.job.draws ∧ t.step.prologues = s.step.prologues)

/-- The boundary: an abandoned step just ends, its buffers cleared (log 86); with every merge complete and every member in agreement the
boundary completes, and the seal comes next; SEAL_BEGIN then builds the record of g(t), empties the dirty set and ships the generation
(R133, R356, R357, R372). Rows that complete so: boundaryWork, sealBegin. -/
def Obligations.BoundaryAndSeal : Prop :=
  ∀ s : State, s.step.active = true → stopped s = false →
    (s.step.phase = 2 → s.fab.stale = [] → s.step.abandoned = true → ∃ t, exec .boundaryWork s = .next t ∧ t.step.active = false ∧
      t.eng.bufs = [] ∧ t.eng.lacc = s.eng.lacc ∧ sameMemory s t ∧ t.job = s.job ∧ t.ident = s.ident ∧ t.fab = s.fab) ∧
    (∀ u, s.step.phase = 2 → s.fab.stale = [] → allOpsDone s = true → s.step.abandoned = false → s.step.invalid = false →
      u = advanceMerges (if mergesBegun s then s else beginMerges (trace (noteSampleWait { s with assay := { s.assay with
        dueCount := s.job.due.length } }) 2 2 s.step.plan (genOf s s.step.number.toNat).toNat 0)) →
      mergesDone u = true → disagreements u = [] → ∃ t, exec .boundaryWork s = .next t ∧ t.step.phase = 3 ∧ t.step.barrier = 1 ∧
        t.step.active = true ∧ t.sealer.phase = 0 ∧ t.assay = AssaySt.none ∧ t.fuses = s.fuses ∧ t.ident.committed = s.ident.committed) ∧
    (s.step.phase = 3 → s.sealer.phase = 0 → s.sealer.dirtyPages = [] → s.sealer.dirtyRows = [] →
      ∃ t, exec .sealBegin s = .next t ∧ t.sealer.phase = 2 ∧ t.sealer.gen = genOf s s.step.number.toNat ∧ t.sealer.dirtyPages = [] ∧
        t.sealer.dirtyRows = [] ∧ (mapFind t.sealer.records (genOf s s.step.number.toNat).toNat).isSome = true ∧
        t.step.active = true ∧ t.ident.committed = s.ident.committed)

/-- A scrubber reads the next word of its memory: a clean or poisoned word stays; a correctable one is corrected in place; an uncorrectable
one keeps its data and tag and becomes poisoned; no other byte changes (R246, R249, R250). Rows that complete so: scrubWord. -/
def Obligations.ScrubbingMends : Prop :=
  ∀ (unit : MemUnit) (s : State) (key base words p : Nat) (r : WordRead), stopped s = false → s.mem.wiping = false →
    scrubUnit s unit = (key, base, words) → p = base + 16 * (mapGet s.mem.scrubPos key 0 % words) →
    r = readWord (rawData s p) (rawMeta s p) →
    ((r.cls = .clean ∨ r.cls = .poisoned) → exec (.scrubWord unit) s = .next { s with mem := { s.mem with
      scrubPos := mapSet s.mem.scrubPos key ((mapGet s.mem.scrubPos key 0 % words + 1) % words) } }) ∧
    (r.cls = .corrected → ∃ t, exec (.scrubWord unit) s = .next t ∧ rawData t p = r.fixData % 2 ^ 128 ∧
      rawMeta t p = r.fixMeta % 2 ^ 16 ∧ (∀ q, q < p ∨ p + 16 ≤ q → byteOf t q = byteOf s q) ∧ t.job = s.job ∧ t.sealer = s.sealer) ∧
    (r.cls = .uncorrectable → ∃ t, exec (.scrubWord unit) s = .next t ∧ rawData t p = rawData s p ∧
      rawMeta t p = writeMeta (rawData s p) r.tag true % 2 ^ 16 ∧ (∀ q, q < p ∨ p + 16 ≤ q → byteOf t q = byteOf s q) ∧ t.job = s.job)

/-! ### Power, temperature, gates -/

/-- The power side: a reconciliation window adds the measured energy to its counter and is kept with its estimate; a 1 ms window is shown
to the SMBus and pauses dispatch above the cap, until it falls to 99% of it; a ramp ends; a closing node goes off, or on again where it was
to reopen (R449, R453, R454, R457, R463). Rows that complete so: reconciliationWindow, powerWindow, vcoreRampComplete, gateCloseComplete. -/
def Obligations.PowerFollows : Prop :=
  ∀ (m w n : Nat) (level : GateLevel) (s : State),
    (foremanUp s = true → stopped s = false → ∃ t e, exec (.reconciliationWindow m) s = .next t ∧
      counterAt t 0xEB0 = counterAt s 0xEB0 + BitVec.ofNat 64 m ∧ t.pow.windows = ((m, e) :: s.pow.windows).take 16 ∧
      t.pow.events = [] ∧ t.pow.windowAt = timebase t ∧ t.mem = s.mem ∧ t.job = s.job) ∧
    (s.pins.vauxUp = true →
      (∃ t, exec (.powerWindow w) s = .next t ∧ t.pins = { s.pins with pinWatts := BitVec.ofNat 16 w } ∧ t.mem = s.mem ∧ t.job = s.job ∧
        (foremanUp s = true → stopped s = false →
          t.pow.pausePurse = (if s.pow.pausePurse then !decide (w * 100 ≤ 99 * s.pow.cap) else s.step.active && decide (s.pow.cap < w)))) ) ∧
    (stopped s = false →
      exec .vcoreRampComplete s = .next { s with pow := { s.pow with ramp := false } } ∧
      ((gateAt s (gateLevel level) n = 2 ∨ gateAt s (gateLevel level) n = 3) → ∃ t, exec (.gateCloseComplete level n) s = .next t ∧
        gateAt t (gateLevel level) n = (if gateAt s (gateLevel level) n = 2 then 0 else 1) ∧
        (∀ l k, 1024 * l + k ≠ 1024 * gateLevel level + n → gateAt t l k = gateAt s l k) ∧ t.job = s.job ∧ t.mem = s.mem))

/-- The thermal limit: a sample of all sensors gives T_j and its counters; at 100 °C the limit drops one point below the point in force, 10
ms later by one more or a pause, and 100 ms at or below 95 °C release it (R449, R469, R470). Rows that complete so: thermalSample,
thermalStepDown, thermalRelease. -/
def Obligations.ThermalLimitActs : Prop :=
  ∀ (rs : List (BitVec 16)) (tj t0 : Nat) (s : State),
    (s.pins.vauxUp = true → s.pins.railsOn = true → rs.length = 144 → tj = rs.foldl (fun m x => max m x.toNat) 0 →
      ∃ t, exec (.thermalSample rs) s = .next t ∧ t.pins.tj.toNat = tj ∧ t.pins.sensors = rs ∧
        t.pins.tjMax.toNat = max tj s.pins.tjMax.toNat ∧ counterAt t 0xEB8 = BitVec.ofNat 64 tj ∧ t.mem = s.mem ∧ t.job = s.job ∧
        (foremanUp s = true → 1600 ≤ tj → s.pow.hotSince = none → t.pow.throttle = true ∧ t.pow.opThermal = s.pow.opNow - 1 ∧
          t.pow.opNow = min s.pow.opHost (min s.pow.opPurse (s.pow.opNow - 1))) ∧
        (foremanUp s = true → tj < 1600 → t.pow.hotSince = none ∧ t.pow.pauseThermal = false ∧ t.pow.opNow = s.pow.opNow ∧
          t.pow.throttle = s.pow.throttle)) ∧
    (foremanUp s = true → s.clk.running = true →
      (s.pow.hotSince = some t0 → ∃ t, exec .thermalStepDown s = .next t ∧ t.pow.opThermal = s.pow.opThermal - 1 ∧
        t.pow.pauseThermal = (s.pow.pauseThermal || s.pow.opNow == 0) ∧ t0 + 10000000 ≤ timebase t ∧
        t.pow.hotSince = some (timebase t) ∧ t.pow.opNow ≤ s.pow.opNow ∧ t.mem = s.mem ∧ t.job = s.job) ∧
      (s.pow.throttle = true → s.pow.coolSince = some t0 → ∃ t, exec .thermalRelease s = .next t ∧ t.pow.opThermal = 2 ∧
        t.pow.throttle = false ∧ t0 + 100000000 ≤ timebase t ∧
        (s.step.active = false → t.pow.opNow = min s.pow.opHost (min s.pow.opPurse 2)) ∧ t.mem = s.mem ∧ t.job = s.job))

/-! ### Formats and the page map -/

/-- The 8-bit float formats, code by code, bit fields as R28 and R29 give them. -/
def Obligations.FloatEightCodes : Prop :=
  ∀ c : Nat, c < 256 →
    (decode .f8a false c).cls = (if c % 128 = 127 then .nan else .finite) ∧
    (c % 128 ≠ 127 → (decode .f8a false c).neg = c.testBit 7 ∧ -30 ≤ (decode .f8a false c).v.e ∧
      (decode .f8a false c).v.m * 2 ^ ((decode .f8a false c).v.e + 30).toNat =
        (if c.testBit 7 then -1 else 1) * ((if c / 8 % 16 = 0 then c % 8 else (8 + c % 8) * 2 ^ (c / 8 % 16 - 1) : Nat) : Int) * 2 ^ 21) ∧
    (decode .f8b false c).cls = (if c / 4 % 32 ≠ 31 then .finite else if c % 4 = 0 then
      (if c.testBit 7 then .negInf else .posInf) else .nan) ∧
    (c / 4 % 32 ≠ 31 → (decode .f8b false c).neg = c.testBit 7 ∧ -30 ≤ (decode .f8b false c).v.e ∧
      (decode .f8b false c).v.m * 2 ^ ((decode .f8b false c).v.e + 30).toNat =
        (if c.testBit 7 then -1 else 1) * ((if c / 4 % 32 = 0 then c % 4 else (4 + c % 4) * 2 ^ (c / 4 % 32 - 1) : Nat) : Int) * 2 ^ 14)

/-- Where page map entries lie (R236): of LPDDR6 page v in guild v mod 16 at offset 8 × ⌊v/16⌋ of the system page; of on-chip pages in
their own guild's system page, a scratchpad of workshop w belonging to guild ⌊w/8⌋; the system page is page 2 of a guild's store
(R241). No two pages share an entry. -/
def Obligations.PageEntryPlaces : Prop :=
  (∀ v a, v < 2 ^ 19 → a / 2 ^ 21 = v → entryAddr a = some (storeOf (v % 16) + 0x400000 + 8 * (v / 16))) ∧
  (∀ w o, w < 128 → o < 0x400000 → ∃ k, k < 0x40000 ∧
    entryAddr (scratchBase + w * 0x400000 + o) = some (storeOf (w / 8) + 0x400000 + 8 * k)) ∧
  (∀ g o, g < 16 → o < 0x2000000 → ∃ k, k < 0x40000 ∧ entryAddr (storeOf g + o) = some (storeOf g + 0x400000 + 8 * k)) ∧
  (∀ a b, (entryAddr a).isSome = true → entryAddr a = entryAddr b → a / 2 ^ 21 = b / 2 ^ 21)

/-- Boundary scan in Manufacture: EXTEST, CLAMP and HIGHZ are loaded only without a job, the register otherwise loads BYPASS, and leaving
one of them resets the module as MOD_RESET_N does, with RESET_CAUSE 2 (R512). Rows that complete so: bscanInstructionLoad. -/
def Obligations.ScanLoads : Prop :=
  ∀ (ins : ScanInstr) (s : State), lifecycleOf s.fuses = 1 → stopped s = false → ins ≠ .other →
    ∃ t, exec (.bscanInstructionLoad ins) s = .next t ∧
      t.pins.tap = (if scanHolds ins = true ∧ s.job.state ≠ 0 then .bypass else ins) ∧
      (scanHolds s.pins.tap = true → t.pins.tap ≠ s.pins.tap → atReset s t 2 ∧ t.pcie.linkUp = false ∧ t.ident.dmaBase = 0 ∧
        timebase t = 0) ∧
      ((scanHolds s.pins.tap = false ∨ t.pins.tap = s.pins.tap) → t = { s with pins := { s.pins with tap := t.pins.tap } })
end

