-- ==== Sys2Proof/Laws/Memory.lean ====
section
/-! SUPPORT. The laws of a sparse memory: its canonical form is kept by every write, and a read after a write gives what was
written there and what was there before elsewhere. -/

namespace Sys2Proof.Machine

/-! ### Lists by key -/

theorem mapFind_mapSet {α : Type} (m : List (Nat × α)) (k j : Nat) (v : α) :
    mapFind (mapSet m k v) j = if k = j then some v else mapFind m j := by
  induction m with
  | nil => simp [mapSet, mapFind]
  | cons e m ih =>
    obtain ⟨i, w⟩ := e
    simp only [mapSet]
    split
    · simp only [mapFind]
    · split
      · rename_i h1 h2
        subst h2
        simp only [mapFind]
        split <;> simp_all
      · rename_i h1 h2
        simp only [mapFind, ih]
        split <;> simp_all

/-- Every key of the list is at least a. -/
theorem risingKeys_cons {α : Type} (k : Nat) (v : α) (m : List (Nat × α)) :
    risingKeys ((k, v) :: m) = true ↔ (∀ e ∈ m, k < e.1) ∧ risingKeys m = true := by
  induction m generalizing k v with
  | nil => simp [risingKeys]
  | cons e m ih =>
    obtain ⟨j, w⟩ := e
    simp only [risingKeys, Bool.and_eq_true, decide_eq_true_eq, List.mem_cons, forall_eq_or_imp]
    constructor
    · rintro ⟨h1, h2⟩
      exact ⟨⟨h1, fun e he => Nat.lt_trans h1 (((ih j w).1 h2).1 e he)⟩, h2⟩
    · rintro ⟨⟨h1, _⟩, h2⟩
      exact ⟨h1, h2⟩

theorem mem_mapSet {α : Type} (m : List (Nat × α)) (k : Nat) (v : α) (e : Nat × α) :
    e ∈ mapSet m k v → e = (k, v) ∨ e ∈ m := by
  induction m with
  | nil => simp [mapSet]
  | cons x m ih =>
    obtain ⟨j, w⟩ := x
    simp only [mapSet]
    split
    · simp
    · split
      · simp only [List.mem_cons]; rintro (h | h) <;> simp [h]
      · simp only [List.mem_cons]
        rintro (h | h)
        · simp [h]
        · rcases ih h with h | h <;> simp [h]

theorem risingKeys_mapSet {α : Type} (m : List (Nat × α)) (k : Nat) (v : α) (h : risingKeys m = true) :
    risingKeys (mapSet m k v) = true := by
  induction m with
  | nil => rfl
  | cons x m ih =>
    obtain ⟨j, w⟩ := x
    have hx := (risingKeys_cons j w m).1 h
    simp only [mapSet]
    split
    · rename_i hk
      rw [risingKeys_cons]
      refine ⟨fun e he => ?_, h⟩
      rcases List.mem_cons.1 he with he | he
      · simpa [he] using hk
      · exact Nat.lt_trans hk (hx.1 e he)
    · split
      · rename_i hk
        subst hk
        exact (risingKeys_cons _ _ _).2 hx
      · rw [risingKeys_cons]
        refine ⟨fun e he => ?_, ih hx.2⟩
        rcases mem_mapSet m k v e he with he | he
        · subst he; simp only; omega
        · exact hx.1 e he

theorem risingKeys_filter {α : Type} (m : List (Nat × α)) (p : Nat × α → Bool) (h : risingKeys m = true) :
    risingKeys (m.filter p) = true := by
  induction m with
  | nil => rfl
  | cons x m ih =>
    obtain ⟨j, w⟩ := x
    have hx := (risingKeys_cons j w m).1 h
    simp only [List.filter_cons]
    split
    · rw [risingKeys_cons]
      exact ⟨fun e he => hx.1 e (List.mem_filter.1 he).1, ih hx.2⟩
    · exact ih hx.2

/-! ### The canonical form -/

theorem sparseWf_iff {α : Type} [DecidableEq α] (d : α) (m : List (Nat × α)) :
    sparseWf d m = true ↔ risingKeys m = true ∧ ∀ e ∈ m, e.2 ≠ d := by
  simp [sparseWf]

theorem sparseWf_filter {α : Type} [DecidableEq α] (d : α) (m : List (Nat × α)) (p : Nat × α → Bool)
    (h : sparseWf d m = true) : sparseWf d (m.filter p) = true := by
  rw [sparseWf_iff] at *
  exact ⟨risingKeys_filter m p h.1, fun e he => h.2 e (List.mem_filter.1 he).1⟩

/-- A sparse write keeps the canonical form, whatever is written: the value that an unlisted key reads as is not listed. -/
theorem sparseWf_sparseSet {α : Type} [DecidableEq α] (d : α) (m : List (Nat × α)) (k : Nat) (v : α)
    (h : sparseWf d m = true) : sparseWf d (sparseSet d m k v) = true := by
  simp only [sparseSet]
  split
  · exact sparseWf_filter d m _ h
  · rename_i hv
    rw [sparseWf_iff] at *
    refine ⟨risingKeys_mapSet m k v h.1, fun e he => ?_⟩
    rcases mem_mapSet m k v e he with he | he
    · subst he; exact hv
    · exact h.2 e he

theorem mapFind_filter_ne {α : Type} (m : List (Nat × α)) (k j : Nat) :
    mapFind (m.filter fun e => e.1 != k) j = if k = j then none else mapFind m j := by
  induction m with
  | nil => simp [mapFind]
  | cons x m ih =>
    obtain ⟨i, w⟩ := x
    by_cases hi : i = k
    · subst hi
      by_cases hj : i = j <;> simp_all [mapFind]
    · by_cases hj : i = j <;> by_cases hk : k = j <;> simp_all [mapFind]

/-- A sparse list reads what was written at a key, and elsewhere what it read before. -/
theorem mapGet_sparseSet {α : Type} [DecidableEq α] (d : α) (m : List (Nat × α)) (k j : Nat) (v : α) :
    mapGet (sparseSet d m k v) j d = if k = j then v else mapGet m j d := by
  simp only [mapGet, sparseSet]
  split
  · rename_i hv
    simp only [mapErase, mapFind_filter_ne]
    split <;> simp_all
  · rw [mapFind_mapSet m k j v]
    split <;> rfl

/-! ### Bytes (R243, R434) -/

theorem memoryWf_cellsPut (bs : List Byte) (m : List Host.Cell) (a : Nat) (h : memoryWf m = true) :
    memoryWf (cellsPut m a bs) = true := by
  induction bs generalizing m a with
  | nil => exact h
  | cons b bs ih => exact ih _ _ (sparseWf_sparseSet 0 m a b h)

theorem memoryWf_filter (m : List Host.Cell) (p : Host.Cell → Bool) (h : memoryWf m = true) :
    memoryWf (m.filter p) = true := sparseWf_filter 0 m p h

theorem memoryWf_dropFrame (scale hm f : Nat) (m : List Host.Cell) (h : memoryWf m = true) :
    memoryWf (dropFrame scale hm f m) = true := memoryWf_filter m _ h

theorem memoryWf_putFrame (scale hm f : Nat) (cells m : List Host.Cell) (h : memoryWf m = true) :
    memoryWf (putFrame scale hm f m cells) = true := by
  unfold putFrame
  induction cells generalizing m with
  | nil => exact h
  | cons c cs ih => exact ih _ (sparseWf_sparseSet 0 m _ c.2 h)

/-- A byte after a write: the byte written there, or what was there. -/
theorem mapGet_cellsPut (bs : List Byte) (m : List Host.Cell) (a k : Nat) :
    mapGet (cellsPut m a bs) k 0 = if a ≤ k ∧ k < a + bs.length then bs.getD (k - a) 0 else mapGet m k 0 := by
  induction bs generalizing m a with
  | nil => rw [if_neg (by simp only [List.length_nil]; omega)]; rfl
  | cons b bs ih =>
    simp only [cellsPut, ih, mapGet_sparseSet 0 m a k b, List.length_cons]
    by_cases hk : a = k
    · subst hk
      have c : ¬ (a + 1 ≤ a ∧ a < a + 1 + bs.length) := by omega
      simp [c]
    · by_cases h2 : a ≤ k ∧ k < a + (bs.length + 1)
      · obtain ⟨d, rfl⟩ : ∃ d, k = a + 1 + d := ⟨k - a - 1, by omega⟩
        have e : a + 1 + d - a = d + 1 := by omega
        have e' : a + 1 + d - (a + 1) = d := by omega
        have c : a + 1 ≤ a + 1 + d ∧ a + 1 + d < a + 1 + bs.length := by omega
        simp only [c, h2, e, e', and_self, if_true, List.getD_cons_succ]
      · have c : ¬ (a + 1 ≤ k ∧ k < a + 1 + bs.length) := by omega
        simp only [c, h2, hk, if_false]

theorem mapFind_filter_keep {α : Type} (m : List (Nat × α)) (p : Nat × α → Bool) (j : Nat)
    (h : ∀ e ∈ m, e.1 = j → p e = true) : mapFind (m.filter p) j = mapFind m j := by
  induction m with
  | nil => rfl
  | cons e m ih =>
    have ih := ih fun x hx => h x (List.mem_cons_of_mem _ hx)
    by_cases hj : e.1 = j
    · have hp := h e (List.mem_cons_self ..) hj
      obtain ⟨i, v⟩ := e
      simp only at hj
      subst hj
      simp [List.filter, hp, mapFind]
    · cases hp : p e <;> obtain ⟨i, v⟩ := e <;> simp only at hj <;> simp [List.filter, hp, mapFind, hj, ih]

/-- A span of a sparse memory, byte by byte. -/
theorem cellsGet_eq (m : List Host.Cell) (a n : Nat) :
    cellsGet m a n = (List.range n).map fun i => mapGet m (a + i) 0 := by
  unfold cellsGet
  apply List.map_congr_left
  intro i hi
  have hi := List.mem_range.1 hi
  simp only [mapGet]
  rw [mapFind_filter_keep]
  intro e _ he
  simp; omega

/-- A read of the bytes just written. -/
theorem cellsGet_cellsPut_same (m : List Host.Cell) (a : Nat) (bs : List Byte) :
    cellsGet (cellsPut m a bs) a bs.length = bs := by
  rw [cellsGet_eq]
  apply List.ext_getElem (by simp)
  intro i h1 h2
  simp only [List.getElem_map, List.getElem_range, mapGet_cellsPut bs m a (a + i)]
  have c : a ≤ a + i ∧ a + i < a + bs.length := by omega
  have e : a + i - a = i := by omega
  simp [c, e, List.getD_eq_getElem?_getD, List.getElem?_eq_getElem h2]

/-- A read of some of the bytes just written. -/
theorem cellsGet_cellsPut_part (m : List Host.Cell) (a i n : Nat) (bs : List Byte)
    (hi : i + n ≤ bs.length) : cellsGet (cellsPut m a bs) (a + i) n = (bs.drop i).take n := by
  rw [cellsGet_eq]
  apply List.ext_getElem (by simp; omega)
  intro j h1 h2
  simp at h1
  simp only [List.getElem_map, List.getElem_range, mapGet_cellsPut bs m a (a + i + j), List.getElem_take, List.getElem_drop]
  have c : a ≤ a + i + j ∧ a + i + j < a + bs.length := by omega
  have e : a + i + j - a = i + j := by omega
  rw [if_pos c, e, List.getD_eq_getElem?_getD, List.getElem?_eq_getElem (by omega)]
  rfl

/-- A read of bytes that a write does not touch. -/
theorem cellsGet_cellsPut_other (m : List Host.Cell) (a b n : Nat) (bs : List Byte)
    (d : b + n ≤ a ∨ a + bs.length ≤ b) : cellsGet (cellsPut m a bs) b n = cellsGet m b n := by
  rw [cellsGet_eq, cellsGet_eq]
  apply List.map_congr_left
  intro i hi
  have hi := List.mem_range.1 hi
  have c : ¬ (a ≤ b + i ∧ b + i < a + bs.length) := by omega
  simp only [mapGet_cellsPut bs m a (b + i), c, if_false]

theorem cellsGet_length (m : List Host.Cell) (a n : Nat) : (cellsGet m a n).length = n := by simp [cellsGet_eq]

/-! ### Mailboxes (R391) -/

theorem windowsWf_iff (l : List (Nat × Mailbox)) :
    windowsWf l = true ↔ risingKeys l = true ∧ ∀ e ∈ l, memoryWf e.2.window = true := by
  simp [windowsWf]

theorem windowsWf_sparseSet (l : List (Nat × Mailbox)) (m : Nat) (b : Mailbox) (h : windowsWf l = true)
    (hb : memoryWf b.window = true) : windowsWf (sparseSet Mailbox.idle l m b) = true := by
  rw [windowsWf_iff] at *
  simp only [sparseSet]
  split
  · exact ⟨risingKeys_filter l _ h.1, fun e he => h.2 e (List.mem_filter.1 he).1⟩
  · refine ⟨risingKeys_mapSet l m b h.1, fun e he => ?_⟩
    rcases mem_mapSet l m b e he with rfl | h'
    · exact hb
    · exact h.2 e h'

theorem mem_of_mapFind {α : Type} {l : List (Nat × α)} {k : Nat} {v : α} (h : mapFind l k = some v) : (k, v) ∈ l := by
  induction l with
  | nil => simp [mapFind] at h
  | cons e l ih =>
    obtain ⟨j, w⟩ := e
    simp only [mapFind] at h
    split at h
    · rename_i hj
      subst hj
      simp_all
    · exact List.mem_cons_of_mem _ (ih h)

theorem memoryWf_boxAt (s : State) (m : Nat) (h : windowsWf s.mbox = true) : memoryWf (boxAt s m).window = true := by
  rw [windowsWf_iff] at h
  unfold boxAt mapGet
  cases hf : mapFind s.mbox m with
  | none => rfl
  | some b => exact h.2 _ (mem_of_mapFind hf)

@[simp] theorem boxAt_setBox (s : State) (m k : Nat) (b : Mailbox) :
    boxAt (setBox s m b) k = if m = k then b else boxAt s k := mapGet_sparseSet Mailbox.idle s.mbox m k b

end Sys2Proof.Machine
end

