-- ==== Sys2Proof/Laws/State.lean ====
section
/-! SUPPORT. What the shared operations leave alone: counters, trace, events, mailboxes and host data change nothing behind the
host interface, and each field of State seen through them. -/

namespace Sys2Proof.Machine


@[simp] theorem behindHost_self (s : State) : behindHost s s = s := rfl

@[simp] theorem behindHost_behindHost (r s t : State) : behindHost r (behindHost s t) = behindHost r t := rfl

@[simp] theorem behindHost_mk (r s : State) (p : PcieSt) (m : List (Nat × Mailbox)) (q : EvqSt) (o : ObsSt) :
    behindHost r { s with pcie := p, mbox := m, evq := q, obs := o } = behindHost r s := rfl

theorem behindHost_evq (r s : State) (q : EvqSt) : behindHost r { s with evq := q } = behindHost r s := rfl

theorem behindHost_ite (r : State) (c : Prop) [Decidable c] (s t : State) :
    behindHost r (if c then s else t) = if c then behindHost r s else behindHost r t := by split <;> rfl

@[simp] theorem behindHost_setCounter (r s : State) (n v : Nat) : behindHost r (setCounter s n v) = behindHost r s := rfl

@[simp] theorem behindHost_addCounter (r s : State) (n v : Nat) : behindHost r (addCounter s n v) = behindHost r s := rfl

@[simp] theorem behindHost_bump (r s : State) (n : Nat) : behindHost r (bump s n) = behindHost r s := rfl

@[simp] theorem behindHost_hostPut (r s : State) (a : Nat) (bs : List Byte) : behindHost r (hostPut s a bs) = behindHost r s := rfl

@[simp] theorem behindHost_setBox (r s : State) (m : Nat) (b : Mailbox) : behindHost r (setBox s m b) = behindHost r s := rfl

@[simp] theorem behindHost_goBusy (r s : State) (m : Nat) : behindHost r (goBusy s m) = behindHost r s := rfl

@[simp] theorem behindHost_ignoreWrites (r s : State) (m n : Nat) : behindHost r (ignoreWrites s m n) = behindHost r s := rfl

@[simp] theorem behindHost_sendVector (r s : State) (v : Nat) : behindHost r (sendVector s v) = behindHost r s := rfl

@[simp] theorem behindHost_signalVector (r s : State) (v : Nat) : behindHost r (signalVector s v) = behindHost r s := by
  unfold signalVector; repeat' split
  all_goals rfl

@[simp] theorem behindHost_traceCore (r s : State) (a b c d e : Nat) :
    behindHost r (traceCore s a b c d e).1 = behindHost r s := by
  unfold traceCore; dsimp only; repeat' split
  all_goals rfl

@[simp] theorem behindHost_queueEvent (r s : State) (e : EventArgs) :
    behindHost r (queueEvent s e).1 = behindHost r s := by
  unfold queueEvent; dsimp only; split
  · rw [behindHost_signalVector, behindHost_evq, behindHost_hostPut]
  · exact behindHost_mk r s _ _ _ _

/-- An event that is no NMI leaves everything behind the host interface (R421, R423). -/
@[simp] theorem behindHost_raiseCore (r s : State) (e : EventArgs) (h : e.nmi = false) :
    behindHost r (raiseCore s e) = behindHost r s := by
  have q := behindHost_queueEvent r s e
  unfold raiseCore; dsimp only
  split
  · split
    · exact q
    · rw [behindHost_queueEvent]; exact q
  · simp only [h]; exact q

@[simp] theorem behindHost_raiseWrap (r s : State) : behindHost r (raiseWrap s) = behindHost r s := by
  unfold raiseWrap; dsimp only; rw [behindHost_raiseCore _ _ _ rfl, behindHost_traceCore, behindHost_mk]

@[simp] theorem behindHost_trace (r s : State) (a b c d e : Nat) : behindHost r (trace s a b c d e) = behindHost r s := by
  unfold trace; dsimp only; split <;> simp

@[simp] theorem behindHost_raise (r s : State) (e : EventArgs) (h : e.nmi = false) :
    behindHost r (raise s e) = behindHost r s := by
  unfold raise; split <;> simp [h]

@[simp] theorem behindHost_finishCommand (r s : State) (q : Req) (p : Reply) :
    behindHost r (finishCommand s q p) = behindHost r s := by
  unfold finishCommand notifyDone; split <;> simp [putReply]

@[simp] theorem behindHost_placeHost (r s : State) (ws : List HostWrite) : behindHost r (placeHost s ws) = behindHost r s := by
  unfold placeHost
  induction ws generalizing s with
  | nil => rfl
  | cons w ws ih => exact ih _

@[simp] theorem behindHost_begun (op : Nat) (rq : MbReq) (r s : State) : behindHost r (begun op rq s) = behindHost r s := by
  simp [begun, loaded]

@[simp] theorem setCounter_pins (s : State) (n v : Nat) : (setCounter s n v).pins = s.pins := rfl

@[simp] theorem setCounter_clk (s : State) (n v : Nat) : (setCounter s n v).clk = s.clk := rfl

@[simp] theorem setCounter_ident (s : State) (n v : Nat) : (setCounter s n v).ident = s.ident := rfl

@[simp] theorem setCounter_fuses (s : State) (n v : Nat) : (setCounter s n v).fuses = s.fuses := rfl

@[simp] theorem setCounter_mem (s : State) (n v : Nat) : (setCounter s n v).mem = s.mem := rfl

@[simp] theorem setCounter_fab (s : State) (n v : Nat) : (setCounter s n v).fab = s.fab := rfl

@[simp] theorem setCounter_sealer (s : State) (n v : Nat) : (setCounter s n v).sealer = s.sealer := rfl

@[simp] theorem setCounter_buddy (s : State) (n v : Nat) : (setCounter s n v).buddy = s.buddy := rfl

@[simp] theorem setCounter_restore (s : State) (n v : Nat) : (setCounter s n v).restore = s.restore := rfl

@[simp] theorem setCounter_job (s : State) (n v : Nat) : (setCounter s n v).job = s.job := rfl

@[simp] theorem setCounter_pow (s : State) (n v : Nat) : (setCounter s n v).pow = s.pow := rfl

@[simp] theorem setCounter_step (s : State) (n v : Nat) : (setCounter s n v).step = s.step := rfl

@[simp] theorem setCounter_eng (s : State) (n v : Nat) : (setCounter s n v).eng = s.eng := rfl

@[simp] theorem setCounter_assay (s : State) (n v : Nat) : (setCounter s n v).assay = s.assay := rfl

@[simp] theorem setCounter_pending (s : State) (n v : Nat) : (setCounter s n v).pending = s.pending := rfl

@[simp] theorem setCounter_freeCtr (s : State) (n v : Nat) : (setCounter s n v).freeCtr = s.freeCtr := rfl

@[simp] theorem addCounter_pins (s : State) (n v : Nat) : (addCounter s n v).pins = s.pins := rfl

@[simp] theorem addCounter_clk (s : State) (n v : Nat) : (addCounter s n v).clk = s.clk := rfl

@[simp] theorem addCounter_ident (s : State) (n v : Nat) : (addCounter s n v).ident = s.ident := rfl

@[simp] theorem addCounter_fuses (s : State) (n v : Nat) : (addCounter s n v).fuses = s.fuses := rfl

@[simp] theorem addCounter_mem (s : State) (n v : Nat) : (addCounter s n v).mem = s.mem := rfl

@[simp] theorem addCounter_fab (s : State) (n v : Nat) : (addCounter s n v).fab = s.fab := rfl

@[simp] theorem addCounter_sealer (s : State) (n v : Nat) : (addCounter s n v).sealer = s.sealer := rfl

@[simp] theorem addCounter_buddy (s : State) (n v : Nat) : (addCounter s n v).buddy = s.buddy := rfl

@[simp] theorem addCounter_restore (s : State) (n v : Nat) : (addCounter s n v).restore = s.restore := rfl

@[simp] theorem addCounter_job (s : State) (n v : Nat) : (addCounter s n v).job = s.job := rfl

@[simp] theorem addCounter_pow (s : State) (n v : Nat) : (addCounter s n v).pow = s.pow := rfl

@[simp] theorem addCounter_step (s : State) (n v : Nat) : (addCounter s n v).step = s.step := rfl

@[simp] theorem addCounter_eng (s : State) (n v : Nat) : (addCounter s n v).eng = s.eng := rfl

@[simp] theorem addCounter_assay (s : State) (n v : Nat) : (addCounter s n v).assay = s.assay := rfl

@[simp] theorem addCounter_pending (s : State) (n v : Nat) : (addCounter s n v).pending = s.pending := rfl

@[simp] theorem addCounter_freeCtr (s : State) (n v : Nat) : (addCounter s n v).freeCtr = s.freeCtr := rfl

@[simp] theorem bump_pins (s : State) (n : Nat) : (bump s n).pins = s.pins := rfl

@[simp] theorem bump_clk (s : State) (n : Nat) : (bump s n).clk = s.clk := rfl

@[simp] theorem bump_ident (s : State) (n : Nat) : (bump s n).ident = s.ident := rfl

@[simp] theorem bump_fuses (s : State) (n : Nat) : (bump s n).fuses = s.fuses := rfl

@[simp] theorem bump_mem (s : State) (n : Nat) : (bump s n).mem = s.mem := rfl

@[simp] theorem bump_fab (s : State) (n : Nat) : (bump s n).fab = s.fab := rfl

@[simp] theorem bump_sealer (s : State) (n : Nat) : (bump s n).sealer = s.sealer := rfl

@[simp] theorem bump_buddy (s : State) (n : Nat) : (bump s n).buddy = s.buddy := rfl

@[simp] theorem bump_restore (s : State) (n : Nat) : (bump s n).restore = s.restore := rfl

@[simp] theorem bump_job (s : State) (n : Nat) : (bump s n).job = s.job := rfl

@[simp] theorem bump_pow (s : State) (n : Nat) : (bump s n).pow = s.pow := rfl

@[simp] theorem bump_step (s : State) (n : Nat) : (bump s n).step = s.step := rfl

@[simp] theorem bump_eng (s : State) (n : Nat) : (bump s n).eng = s.eng := rfl

@[simp] theorem bump_assay (s : State) (n : Nat) : (bump s n).assay = s.assay := rfl

@[simp] theorem bump_pending (s : State) (n : Nat) : (bump s n).pending = s.pending := rfl

@[simp] theorem bump_freeCtr (s : State) (n : Nat) : (bump s n).freeCtr = s.freeCtr := rfl

@[simp] theorem hostPut_pins (s : State) (a : Nat) (bs : List Byte) : (hostPut s a bs).pins = s.pins := rfl

@[simp] theorem hostPut_clk (s : State) (a : Nat) (bs : List Byte) : (hostPut s a bs).clk = s.clk := rfl

@[simp] theorem hostPut_ident (s : State) (a : Nat) (bs : List Byte) : (hostPut s a bs).ident = s.ident := rfl

@[simp] theorem hostPut_fuses (s : State) (a : Nat) (bs : List Byte) : (hostPut s a bs).fuses = s.fuses := rfl

@[simp] theorem hostPut_mem (s : State) (a : Nat) (bs : List Byte) : (hostPut s a bs).mem = s.mem := rfl

@[simp] theorem hostPut_fab (s : State) (a : Nat) (bs : List Byte) : (hostPut s a bs).fab = s.fab := rfl

@[simp] theorem hostPut_sealer (s : State) (a : Nat) (bs : List Byte) : (hostPut s a bs).sealer = s.sealer := rfl

@[simp] theorem hostPut_buddy (s : State) (a : Nat) (bs : List Byte) : (hostPut s a bs).buddy = s.buddy := rfl

@[simp] theorem hostPut_restore (s : State) (a : Nat) (bs : List Byte) : (hostPut s a bs).restore = s.restore := rfl

@[simp] theorem hostPut_job (s : State) (a : Nat) (bs : List Byte) : (hostPut s a bs).job = s.job := rfl

@[simp] theorem hostPut_pow (s : State) (a : Nat) (bs : List Byte) : (hostPut s a bs).pow = s.pow := rfl

@[simp] theorem hostPut_step (s : State) (a : Nat) (bs : List Byte) : (hostPut s a bs).step = s.step := rfl

@[simp] theorem hostPut_eng (s : State) (a : Nat) (bs : List Byte) : (hostPut s a bs).eng = s.eng := rfl

@[simp] theorem hostPut_assay (s : State) (a : Nat) (bs : List Byte) : (hostPut s a bs).assay = s.assay := rfl

@[simp] theorem hostPut_pending (s : State) (a : Nat) (bs : List Byte) : (hostPut s a bs).pending = s.pending := rfl

@[simp] theorem hostPut_freeCtr (s : State) (a : Nat) (bs : List Byte) : (hostPut s a bs).freeCtr = s.freeCtr := rfl

@[simp] theorem setBox_pins (s : State) (m : Nat) (b : Mailbox) : (setBox s m b).pins = s.pins := rfl

@[simp] theorem setBox_clk (s : State) (m : Nat) (b : Mailbox) : (setBox s m b).clk = s.clk := rfl

@[simp] theorem setBox_ident (s : State) (m : Nat) (b : Mailbox) : (setBox s m b).ident = s.ident := rfl

@[simp] theorem setBox_fuses (s : State) (m : Nat) (b : Mailbox) : (setBox s m b).fuses = s.fuses := rfl

@[simp] theorem setBox_mem (s : State) (m : Nat) (b : Mailbox) : (setBox s m b).mem = s.mem := rfl

@[simp] theorem setBox_fab (s : State) (m : Nat) (b : Mailbox) : (setBox s m b).fab = s.fab := rfl

@[simp] theorem setBox_sealer (s : State) (m : Nat) (b : Mailbox) : (setBox s m b).sealer = s.sealer := rfl

@[simp] theorem setBox_buddy (s : State) (m : Nat) (b : Mailbox) : (setBox s m b).buddy = s.buddy := rfl

@[simp] theorem setBox_restore (s : State) (m : Nat) (b : Mailbox) : (setBox s m b).restore = s.restore := rfl

@[simp] theorem setBox_job (s : State) (m : Nat) (b : Mailbox) : (setBox s m b).job = s.job := rfl

@[simp] theorem setBox_pow (s : State) (m : Nat) (b : Mailbox) : (setBox s m b).pow = s.pow := rfl

@[simp] theorem setBox_step (s : State) (m : Nat) (b : Mailbox) : (setBox s m b).step = s.step := rfl

@[simp] theorem setBox_eng (s : State) (m : Nat) (b : Mailbox) : (setBox s m b).eng = s.eng := rfl

@[simp] theorem setBox_assay (s : State) (m : Nat) (b : Mailbox) : (setBox s m b).assay = s.assay := rfl

@[simp] theorem setBox_pending (s : State) (m : Nat) (b : Mailbox) : (setBox s m b).pending = s.pending := rfl

@[simp] theorem setBox_freeCtr (s : State) (m : Nat) (b : Mailbox) : (setBox s m b).freeCtr = s.freeCtr := rfl

@[simp] theorem goBusy_pins (s : State) (m : Nat) : (goBusy s m).pins = s.pins := rfl

@[simp] theorem goBusy_clk (s : State) (m : Nat) : (goBusy s m).clk = s.clk := rfl

@[simp] theorem goBusy_ident (s : State) (m : Nat) : (goBusy s m).ident = s.ident := rfl

@[simp] theorem goBusy_fuses (s : State) (m : Nat) : (goBusy s m).fuses = s.fuses := rfl

@[simp] theorem goBusy_mem (s : State) (m : Nat) : (goBusy s m).mem = s.mem := rfl

@[simp] theorem goBusy_fab (s : State) (m : Nat) : (goBusy s m).fab = s.fab := rfl

@[simp] theorem goBusy_sealer (s : State) (m : Nat) : (goBusy s m).sealer = s.sealer := rfl

@[simp] theorem goBusy_buddy (s : State) (m : Nat) : (goBusy s m).buddy = s.buddy := rfl

@[simp] theorem goBusy_restore (s : State) (m : Nat) : (goBusy s m).restore = s.restore := rfl

@[simp] theorem goBusy_job (s : State) (m : Nat) : (goBusy s m).job = s.job := rfl

@[simp] theorem goBusy_pow (s : State) (m : Nat) : (goBusy s m).pow = s.pow := rfl

@[simp] theorem goBusy_step (s : State) (m : Nat) : (goBusy s m).step = s.step := rfl

@[simp] theorem goBusy_eng (s : State) (m : Nat) : (goBusy s m).eng = s.eng := rfl

@[simp] theorem goBusy_assay (s : State) (m : Nat) : (goBusy s m).assay = s.assay := rfl

@[simp] theorem goBusy_pending (s : State) (m : Nat) : (goBusy s m).pending = s.pending := rfl

@[simp] theorem goBusy_freeCtr (s : State) (m : Nat) : (goBusy s m).freeCtr = s.freeCtr := rfl

@[simp] theorem ignoreWrites_pins (s : State) (m n : Nat) : (ignoreWrites s m n).pins = s.pins := rfl

@[simp] theorem ignoreWrites_clk (s : State) (m n : Nat) : (ignoreWrites s m n).clk = s.clk := rfl

@[simp] theorem ignoreWrites_ident (s : State) (m n : Nat) : (ignoreWrites s m n).ident = s.ident := rfl

@[simp] theorem ignoreWrites_fuses (s : State) (m n : Nat) : (ignoreWrites s m n).fuses = s.fuses := rfl

@[simp] theorem ignoreWrites_mem (s : State) (m n : Nat) : (ignoreWrites s m n).mem = s.mem := rfl

@[simp] theorem ignoreWrites_fab (s : State) (m n : Nat) : (ignoreWrites s m n).fab = s.fab := rfl

@[simp] theorem ignoreWrites_sealer (s : State) (m n : Nat) : (ignoreWrites s m n).sealer = s.sealer := rfl

@[simp] theorem ignoreWrites_buddy (s : State) (m n : Nat) : (ignoreWrites s m n).buddy = s.buddy := rfl

@[simp] theorem ignoreWrites_restore (s : State) (m n : Nat) : (ignoreWrites s m n).restore = s.restore := rfl

@[simp] theorem ignoreWrites_job (s : State) (m n : Nat) : (ignoreWrites s m n).job = s.job := rfl

@[simp] theorem ignoreWrites_pow (s : State) (m n : Nat) : (ignoreWrites s m n).pow = s.pow := rfl

@[simp] theorem ignoreWrites_step (s : State) (m n : Nat) : (ignoreWrites s m n).step = s.step := rfl

@[simp] theorem ignoreWrites_eng (s : State) (m n : Nat) : (ignoreWrites s m n).eng = s.eng := rfl

@[simp] theorem ignoreWrites_assay (s : State) (m n : Nat) : (ignoreWrites s m n).assay = s.assay := rfl

@[simp] theorem ignoreWrites_pending (s : State) (m n : Nat) : (ignoreWrites s m n).pending = s.pending := rfl

@[simp] theorem ignoreWrites_freeCtr (s : State) (m n : Nat) : (ignoreWrites s m n).freeCtr = s.freeCtr := rfl

@[simp] theorem sendVector_pins (s : State) (v : Nat) : (sendVector s v).pins = s.pins := rfl

@[simp] theorem sendVector_clk (s : State) (v : Nat) : (sendVector s v).clk = s.clk := rfl

@[simp] theorem sendVector_ident (s : State) (v : Nat) : (sendVector s v).ident = s.ident := rfl

@[simp] theorem sendVector_fuses (s : State) (v : Nat) : (sendVector s v).fuses = s.fuses := rfl

@[simp] theorem sendVector_mem (s : State) (v : Nat) : (sendVector s v).mem = s.mem := rfl

@[simp] theorem sendVector_fab (s : State) (v : Nat) : (sendVector s v).fab = s.fab := rfl

@[simp] theorem sendVector_sealer (s : State) (v : Nat) : (sendVector s v).sealer = s.sealer := rfl

@[simp] theorem sendVector_buddy (s : State) (v : Nat) : (sendVector s v).buddy = s.buddy := rfl

@[simp] theorem sendVector_restore (s : State) (v : Nat) : (sendVector s v).restore = s.restore := rfl

@[simp] theorem sendVector_job (s : State) (v : Nat) : (sendVector s v).job = s.job := rfl

@[simp] theorem sendVector_pow (s : State) (v : Nat) : (sendVector s v).pow = s.pow := rfl

@[simp] theorem sendVector_step (s : State) (v : Nat) : (sendVector s v).step = s.step := rfl

@[simp] theorem sendVector_eng (s : State) (v : Nat) : (sendVector s v).eng = s.eng := rfl

@[simp] theorem sendVector_assay (s : State) (v : Nat) : (sendVector s v).assay = s.assay := rfl

@[simp] theorem sendVector_pending (s : State) (v : Nat) : (sendVector s v).pending = s.pending := rfl

@[simp] theorem sendVector_freeCtr (s : State) (v : Nat) : (sendVector s v).freeCtr = s.freeCtr := rfl

@[simp] theorem signalVector_pins (s : State) (v : Nat) : (signalVector s v).pins = s.pins := by
  simpa [behindHost] using congrArg State.pins (behindHost_signalVector s s v)

@[simp] theorem signalVector_clk (s : State) (v : Nat) : (signalVector s v).clk = s.clk := by
  simpa [behindHost] using congrArg State.clk (behindHost_signalVector s s v)

@[simp] theorem signalVector_ident (s : State) (v : Nat) : (signalVector s v).ident = s.ident := by
  simpa [behindHost] using congrArg State.ident (behindHost_signalVector s s v)

@[simp] theorem signalVector_fuses (s : State) (v : Nat) : (signalVector s v).fuses = s.fuses := by
  simpa [behindHost] using congrArg State.fuses (behindHost_signalVector s s v)

@[simp] theorem signalVector_mem (s : State) (v : Nat) : (signalVector s v).mem = s.mem := by
  simpa [behindHost] using congrArg State.mem (behindHost_signalVector s s v)

@[simp] theorem signalVector_fab (s : State) (v : Nat) : (signalVector s v).fab = s.fab := by
  simpa [behindHost] using congrArg State.fab (behindHost_signalVector s s v)

@[simp] theorem signalVector_sealer (s : State) (v : Nat) : (signalVector s v).sealer = s.sealer := by
  simpa [behindHost] using congrArg State.sealer (behindHost_signalVector s s v)

@[simp] theorem signalVector_buddy (s : State) (v : Nat) : (signalVector s v).buddy = s.buddy := by
  simpa [behindHost] using congrArg State.buddy (behindHost_signalVector s s v)

@[simp] theorem signalVector_restore (s : State) (v : Nat) : (signalVector s v).restore = s.restore := by
  simpa [behindHost] using congrArg State.restore (behindHost_signalVector s s v)

@[simp] theorem signalVector_job (s : State) (v : Nat) : (signalVector s v).job = s.job := by
  simpa [behindHost] using congrArg State.job (behindHost_signalVector s s v)

@[simp] theorem signalVector_pow (s : State) (v : Nat) : (signalVector s v).pow = s.pow := by
  simpa [behindHost] using congrArg State.pow (behindHost_signalVector s s v)

@[simp] theorem signalVector_step (s : State) (v : Nat) : (signalVector s v).step = s.step := by
  simpa [behindHost] using congrArg State.step (behindHost_signalVector s s v)

@[simp] theorem signalVector_eng (s : State) (v : Nat) : (signalVector s v).eng = s.eng := by
  simpa [behindHost] using congrArg State.eng (behindHost_signalVector s s v)

@[simp] theorem signalVector_assay (s : State) (v : Nat) : (signalVector s v).assay = s.assay := by
  simpa [behindHost] using congrArg State.assay (behindHost_signalVector s s v)

@[simp] theorem signalVector_pending (s : State) (v : Nat) : (signalVector s v).pending = s.pending := by
  simpa [behindHost] using congrArg State.pending (behindHost_signalVector s s v)

@[simp] theorem signalVector_freeCtr (s : State) (v : Nat) : (signalVector s v).freeCtr = s.freeCtr := by
  simpa [behindHost] using congrArg State.freeCtr (behindHost_signalVector s s v)

@[simp] theorem trace_pins (s : State) (a b c d e : Nat) : (trace s a b c d e).pins = s.pins := by
  simpa [behindHost] using congrArg State.pins (behindHost_trace s s a b c d e)

@[simp] theorem trace_clk (s : State) (a b c d e : Nat) : (trace s a b c d e).clk = s.clk := by
  simpa [behindHost] using congrArg State.clk (behindHost_trace s s a b c d e)

@[simp] theorem trace_ident (s : State) (a b c d e : Nat) : (trace s a b c d e).ident = s.ident := by
  simpa [behindHost] using congrArg State.ident (behindHost_trace s s a b c d e)

@[simp] theorem trace_fuses (s : State) (a b c d e : Nat) : (trace s a b c d e).fuses = s.fuses := by
  simpa [behindHost] using congrArg State.fuses (behindHost_trace s s a b c d e)

@[simp] theorem trace_mem (s : State) (a b c d e : Nat) : (trace s a b c d e).mem = s.mem := by
  simpa [behindHost] using congrArg State.mem (behindHost_trace s s a b c d e)

@[simp] theorem trace_fab (s : State) (a b c d e : Nat) : (trace s a b c d e).fab = s.fab := by
  simpa [behindHost] using congrArg State.fab (behindHost_trace s s a b c d e)

@[simp] theorem trace_sealer (s : State) (a b c d e : Nat) : (trace s a b c d e).sealer = s.sealer := by
  simpa [behindHost] using congrArg State.sealer (behindHost_trace s s a b c d e)

@[simp] theorem trace_buddy (s : State) (a b c d e : Nat) : (trace s a b c d e).buddy = s.buddy := by
  simpa [behindHost] using congrArg State.buddy (behindHost_trace s s a b c d e)

@[simp] theorem trace_restore (s : State) (a b c d e : Nat) : (trace s a b c d e).restore = s.restore := by
  simpa [behindHost] using congrArg State.restore (behindHost_trace s s a b c d e)

@[simp] theorem trace_job (s : State) (a b c d e : Nat) : (trace s a b c d e).job = s.job := by
  simpa [behindHost] using congrArg State.job (behindHost_trace s s a b c d e)

@[simp] theorem trace_pow (s : State) (a b c d e : Nat) : (trace s a b c d e).pow = s.pow := by
  simpa [behindHost] using congrArg State.pow (behindHost_trace s s a b c d e)

@[simp] theorem trace_step (s : State) (a b c d e : Nat) : (trace s a b c d e).step = s.step := by
  simpa [behindHost] using congrArg State.step (behindHost_trace s s a b c d e)

@[simp] theorem trace_eng (s : State) (a b c d e : Nat) : (trace s a b c d e).eng = s.eng := by
  simpa [behindHost] using congrArg State.eng (behindHost_trace s s a b c d e)

@[simp] theorem trace_assay (s : State) (a b c d e : Nat) : (trace s a b c d e).assay = s.assay := by
  simpa [behindHost] using congrArg State.assay (behindHost_trace s s a b c d e)

@[simp] theorem trace_pending (s : State) (a b c d e : Nat) : (trace s a b c d e).pending = s.pending := by
  simpa [behindHost] using congrArg State.pending (behindHost_trace s s a b c d e)

@[simp] theorem trace_freeCtr (s : State) (a b c d e : Nat) : (trace s a b c d e).freeCtr = s.freeCtr := by
  simpa [behindHost] using congrArg State.freeCtr (behindHost_trace s s a b c d e)

@[simp] theorem raiseWrap_pins (s : State) : (raiseWrap s).pins = s.pins := by
  simpa [behindHost] using congrArg State.pins (behindHost_raiseWrap s s )

@[simp] theorem raiseWrap_clk (s : State) : (raiseWrap s).clk = s.clk := by
  simpa [behindHost] using congrArg State.clk (behindHost_raiseWrap s s )

@[simp] theorem raiseWrap_ident (s : State) : (raiseWrap s).ident = s.ident := by
  simpa [behindHost] using congrArg State.ident (behindHost_raiseWrap s s )

@[simp] theorem raiseWrap_fuses (s : State) : (raiseWrap s).fuses = s.fuses := by
  simpa [behindHost] using congrArg State.fuses (behindHost_raiseWrap s s )

@[simp] theorem raiseWrap_mem (s : State) : (raiseWrap s).mem = s.mem := by
  simpa [behindHost] using congrArg State.mem (behindHost_raiseWrap s s )

@[simp] theorem raiseWrap_fab (s : State) : (raiseWrap s).fab = s.fab := by
  simpa [behindHost] using congrArg State.fab (behindHost_raiseWrap s s )

@[simp] theorem raiseWrap_sealer (s : State) : (raiseWrap s).sealer = s.sealer := by
  simpa [behindHost] using congrArg State.sealer (behindHost_raiseWrap s s )

@[simp] theorem raiseWrap_buddy (s : State) : (raiseWrap s).buddy = s.buddy := by
  simpa [behindHost] using congrArg State.buddy (behindHost_raiseWrap s s )

@[simp] theorem raiseWrap_restore (s : State) : (raiseWrap s).restore = s.restore := by
  simpa [behindHost] using congrArg State.restore (behindHost_raiseWrap s s )

@[simp] theorem raiseWrap_job (s : State) : (raiseWrap s).job = s.job := by
  simpa [behindHost] using congrArg State.job (behindHost_raiseWrap s s )

@[simp] theorem raiseWrap_pow (s : State) : (raiseWrap s).pow = s.pow := by
  simpa [behindHost] using congrArg State.pow (behindHost_raiseWrap s s )

@[simp] theorem raiseWrap_step (s : State) : (raiseWrap s).step = s.step := by
  simpa [behindHost] using congrArg State.step (behindHost_raiseWrap s s )

@[simp] theorem raiseWrap_eng (s : State) : (raiseWrap s).eng = s.eng := by
  simpa [behindHost] using congrArg State.eng (behindHost_raiseWrap s s )

@[simp] theorem raiseWrap_assay (s : State) : (raiseWrap s).assay = s.assay := by
  simpa [behindHost] using congrArg State.assay (behindHost_raiseWrap s s )

@[simp] theorem raiseWrap_pending (s : State) : (raiseWrap s).pending = s.pending := by
  simpa [behindHost] using congrArg State.pending (behindHost_raiseWrap s s )

@[simp] theorem raiseWrap_freeCtr (s : State) : (raiseWrap s).freeCtr = s.freeCtr := by
  simpa [behindHost] using congrArg State.freeCtr (behindHost_raiseWrap s s )

@[simp] theorem raise_pins (s : State) (e : EventArgs) (h : e.nmi = false) : (raise s e).pins = s.pins := by
  simpa [behindHost] using congrArg State.pins (behindHost_raise s s e h)

@[simp] theorem raise_clk (s : State) (e : EventArgs) (h : e.nmi = false) : (raise s e).clk = s.clk := by
  simpa [behindHost] using congrArg State.clk (behindHost_raise s s e h)

@[simp] theorem raise_ident (s : State) (e : EventArgs) (h : e.nmi = false) : (raise s e).ident = s.ident := by
  simpa [behindHost] using congrArg State.ident (behindHost_raise s s e h)

@[simp] theorem raise_fuses (s : State) (e : EventArgs) (h : e.nmi = false) : (raise s e).fuses = s.fuses := by
  simpa [behindHost] using congrArg State.fuses (behindHost_raise s s e h)

@[simp] theorem raise_mem (s : State) (e : EventArgs) (h : e.nmi = false) : (raise s e).mem = s.mem := by
  simpa [behindHost] using congrArg State.mem (behindHost_raise s s e h)

@[simp] theorem raise_fab (s : State) (e : EventArgs) (h : e.nmi = false) : (raise s e).fab = s.fab := by
  simpa [behindHost] using congrArg State.fab (behindHost_raise s s e h)

@[simp] theorem raise_sealer (s : State) (e : EventArgs) (h : e.nmi = false) : (raise s e).sealer = s.sealer := by
  simpa [behindHost] using congrArg State.sealer (behindHost_raise s s e h)

@[simp] theorem raise_buddy (s : State) (e : EventArgs) (h : e.nmi = false) : (raise s e).buddy = s.buddy := by
  simpa [behindHost] using congrArg State.buddy (behindHost_raise s s e h)

@[simp] theorem raise_restore (s : State) (e : EventArgs) (h : e.nmi = false) : (raise s e).restore = s.restore := by
  simpa [behindHost] using congrArg State.restore (behindHost_raise s s e h)

@[simp] theorem raise_job (s : State) (e : EventArgs) (h : e.nmi = false) : (raise s e).job = s.job := by
  simpa [behindHost] using congrArg State.job (behindHost_raise s s e h)

@[simp] theorem raise_pow (s : State) (e : EventArgs) (h : e.nmi = false) : (raise s e).pow = s.pow := by
  simpa [behindHost] using congrArg State.pow (behindHost_raise s s e h)

@[simp] theorem raise_step (s : State) (e : EventArgs) (h : e.nmi = false) : (raise s e).step = s.step := by
  simpa [behindHost] using congrArg State.step (behindHost_raise s s e h)

@[simp] theorem raise_eng (s : State) (e : EventArgs) (h : e.nmi = false) : (raise s e).eng = s.eng := by
  simpa [behindHost] using congrArg State.eng (behindHost_raise s s e h)

@[simp] theorem raise_assay (s : State) (e : EventArgs) (h : e.nmi = false) : (raise s e).assay = s.assay := by
  simpa [behindHost] using congrArg State.assay (behindHost_raise s s e h)

@[simp] theorem raise_pending (s : State) (e : EventArgs) (h : e.nmi = false) : (raise s e).pending = s.pending := by
  simpa [behindHost] using congrArg State.pending (behindHost_raise s s e h)

@[simp] theorem raise_freeCtr (s : State) (e : EventArgs) (h : e.nmi = false) : (raise s e).freeCtr = s.freeCtr := by
  simpa [behindHost] using congrArg State.freeCtr (behindHost_raise s s e h)

@[simp] theorem finishCommand_pins (s : State) (q : Req) (p : Reply) : (finishCommand s q p).pins = s.pins := by
  simpa [behindHost] using congrArg State.pins (behindHost_finishCommand s s q p)

@[simp] theorem finishCommand_clk (s : State) (q : Req) (p : Reply) : (finishCommand s q p).clk = s.clk := by
  simpa [behindHost] using congrArg State.clk (behindHost_finishCommand s s q p)

@[simp] theorem finishCommand_ident (s : State) (q : Req) (p : Reply) : (finishCommand s q p).ident = s.ident := by
  simpa [behindHost] using congrArg State.ident (behindHost_finishCommand s s q p)

@[simp] theorem finishCommand_fuses (s : State) (q : Req) (p : Reply) : (finishCommand s q p).fuses = s.fuses := by
  simpa [behindHost] using congrArg State.fuses (behindHost_finishCommand s s q p)

@[simp] theorem finishCommand_mem (s : State) (q : Req) (p : Reply) : (finishCommand s q p).mem = s.mem := by
  simpa [behindHost] using congrArg State.mem (behindHost_finishCommand s s q p)

@[simp] theorem finishCommand_fab (s : State) (q : Req) (p : Reply) : (finishCommand s q p).fab = s.fab := by
  simpa [behindHost] using congrArg State.fab (behindHost_finishCommand s s q p)

@[simp] theorem finishCommand_sealer (s : State) (q : Req) (p : Reply) : (finishCommand s q p).sealer = s.sealer := by
  simpa [behindHost] using congrArg State.sealer (behindHost_finishCommand s s q p)

@[simp] theorem finishCommand_buddy (s : State) (q : Req) (p : Reply) : (finishCommand s q p).buddy = s.buddy := by
  simpa [behindHost] using congrArg State.buddy (behindHost_finishCommand s s q p)

@[simp] theorem finishCommand_restore (s : State) (q : Req) (p : Reply) : (finishCommand s q p).restore = s.restore := by
  simpa [behindHost] using congrArg State.restore (behindHost_finishCommand s s q p)

@[simp] theorem finishCommand_job (s : State) (q : Req) (p : Reply) : (finishCommand s q p).job = s.job := by
  simpa [behindHost] using congrArg State.job (behindHost_finishCommand s s q p)

@[simp] theorem finishCommand_pow (s : State) (q : Req) (p : Reply) : (finishCommand s q p).pow = s.pow := by
  simpa [behindHost] using congrArg State.pow (behindHost_finishCommand s s q p)

@[simp] theorem finishCommand_step (s : State) (q : Req) (p : Reply) : (finishCommand s q p).step = s.step := by
  simpa [behindHost] using congrArg State.step (behindHost_finishCommand s s q p)

@[simp] theorem finishCommand_eng (s : State) (q : Req) (p : Reply) : (finishCommand s q p).eng = s.eng := by
  simpa [behindHost] using congrArg State.eng (behindHost_finishCommand s s q p)

@[simp] theorem finishCommand_assay (s : State) (q : Req) (p : Reply) : (finishCommand s q p).assay = s.assay := by
  simpa [behindHost] using congrArg State.assay (behindHost_finishCommand s s q p)

@[simp] theorem finishCommand_pending (s : State) (q : Req) (p : Reply) : (finishCommand s q p).pending = s.pending := by
  simpa [behindHost] using congrArg State.pending (behindHost_finishCommand s s q p)

@[simp] theorem finishCommand_freeCtr (s : State) (q : Req) (p : Reply) : (finishCommand s q p).freeCtr = s.freeCtr := by
  simpa [behindHost] using congrArg State.freeCtr (behindHost_finishCommand s s q p)

@[simp] theorem placeHost_pins (s : State) (ws : List HostWrite) : (placeHost s ws).pins = s.pins := by
  simpa [behindHost] using congrArg State.pins (behindHost_placeHost s s ws)

@[simp] theorem placeHost_clk (s : State) (ws : List HostWrite) : (placeHost s ws).clk = s.clk := by
  simpa [behindHost] using congrArg State.clk (behindHost_placeHost s s ws)

@[simp] theorem placeHost_ident (s : State) (ws : List HostWrite) : (placeHost s ws).ident = s.ident := by
  simpa [behindHost] using congrArg State.ident (behindHost_placeHost s s ws)

@[simp] theorem placeHost_fuses (s : State) (ws : List HostWrite) : (placeHost s ws).fuses = s.fuses := by
  simpa [behindHost] using congrArg State.fuses (behindHost_placeHost s s ws)

@[simp] theorem placeHost_mem (s : State) (ws : List HostWrite) : (placeHost s ws).mem = s.mem := by
  simpa [behindHost] using congrArg State.mem (behindHost_placeHost s s ws)

@[simp] theorem placeHost_fab (s : State) (ws : List HostWrite) : (placeHost s ws).fab = s.fab := by
  simpa [behindHost] using congrArg State.fab (behindHost_placeHost s s ws)

@[simp] theorem placeHost_sealer (s : State) (ws : List HostWrite) : (placeHost s ws).sealer = s.sealer := by
  simpa [behindHost] using congrArg State.sealer (behindHost_placeHost s s ws)

@[simp] theorem placeHost_buddy (s : State) (ws : List HostWrite) : (placeHost s ws).buddy = s.buddy := by
  simpa [behindHost] using congrArg State.buddy (behindHost_placeHost s s ws)

@[simp] theorem placeHost_restore (s : State) (ws : List HostWrite) : (placeHost s ws).restore = s.restore := by
  simpa [behindHost] using congrArg State.restore (behindHost_placeHost s s ws)

@[simp] theorem placeHost_job (s : State) (ws : List HostWrite) : (placeHost s ws).job = s.job := by
  simpa [behindHost] using congrArg State.job (behindHost_placeHost s s ws)

@[simp] theorem placeHost_pow (s : State) (ws : List HostWrite) : (placeHost s ws).pow = s.pow := by
  simpa [behindHost] using congrArg State.pow (behindHost_placeHost s s ws)

@[simp] theorem placeHost_step (s : State) (ws : List HostWrite) : (placeHost s ws).step = s.step := by
  simpa [behindHost] using congrArg State.step (behindHost_placeHost s s ws)

@[simp] theorem placeHost_eng (s : State) (ws : List HostWrite) : (placeHost s ws).eng = s.eng := by
  simpa [behindHost] using congrArg State.eng (behindHost_placeHost s s ws)

@[simp] theorem placeHost_assay (s : State) (ws : List HostWrite) : (placeHost s ws).assay = s.assay := by
  simpa [behindHost] using congrArg State.assay (behindHost_placeHost s s ws)

@[simp] theorem placeHost_pending (s : State) (ws : List HostWrite) : (placeHost s ws).pending = s.pending := by
  simpa [behindHost] using congrArg State.pending (behindHost_placeHost s s ws)

@[simp] theorem placeHost_freeCtr (s : State) (ws : List HostWrite) : (placeHost s ws).freeCtr = s.freeCtr := by
  simpa [behindHost] using congrArg State.freeCtr (behindHost_placeHost s s ws)

@[simp] theorem traceCore_pins (s : State) (a b c d e : Nat) : (traceCore s a b c d e).1.pins = s.pins := by
  simpa [behindHost] using congrArg State.pins (behindHost_traceCore s s a b c d e)

@[simp] theorem traceCore_clk (s : State) (a b c d e : Nat) : (traceCore s a b c d e).1.clk = s.clk := by
  simpa [behindHost] using congrArg State.clk (behindHost_traceCore s s a b c d e)

@[simp] theorem traceCore_ident (s : State) (a b c d e : Nat) : (traceCore s a b c d e).1.ident = s.ident := by
  simpa [behindHost] using congrArg State.ident (behindHost_traceCore s s a b c d e)

@[simp] theorem traceCore_fuses (s : State) (a b c d e : Nat) : (traceCore s a b c d e).1.fuses = s.fuses := by
  simpa [behindHost] using congrArg State.fuses (behindHost_traceCore s s a b c d e)

@[simp] theorem traceCore_mem (s : State) (a b c d e : Nat) : (traceCore s a b c d e).1.mem = s.mem := by
  simpa [behindHost] using congrArg State.mem (behindHost_traceCore s s a b c d e)

@[simp] theorem traceCore_fab (s : State) (a b c d e : Nat) : (traceCore s a b c d e).1.fab = s.fab := by
  simpa [behindHost] using congrArg State.fab (behindHost_traceCore s s a b c d e)

@[simp] theorem traceCore_sealer (s : State) (a b c d e : Nat) : (traceCore s a b c d e).1.sealer = s.sealer := by
  simpa [behindHost] using congrArg State.sealer (behindHost_traceCore s s a b c d e)

@[simp] theorem traceCore_buddy (s : State) (a b c d e : Nat) : (traceCore s a b c d e).1.buddy = s.buddy := by
  simpa [behindHost] using congrArg State.buddy (behindHost_traceCore s s a b c d e)

@[simp] theorem traceCore_restore (s : State) (a b c d e : Nat) : (traceCore s a b c d e).1.restore = s.restore := by
  simpa [behindHost] using congrArg State.restore (behindHost_traceCore s s a b c d e)

@[simp] theorem traceCore_job (s : State) (a b c d e : Nat) : (traceCore s a b c d e).1.job = s.job := by
  simpa [behindHost] using congrArg State.job (behindHost_traceCore s s a b c d e)

@[simp] theorem traceCore_pow (s : State) (a b c d e : Nat) : (traceCore s a b c d e).1.pow = s.pow := by
  simpa [behindHost] using congrArg State.pow (behindHost_traceCore s s a b c d e)

@[simp] theorem traceCore_step (s : State) (a b c d e : Nat) : (traceCore s a b c d e).1.step = s.step := by
  simpa [behindHost] using congrArg State.step (behindHost_traceCore s s a b c d e)

@[simp] theorem traceCore_eng (s : State) (a b c d e : Nat) : (traceCore s a b c d e).1.eng = s.eng := by
  simpa [behindHost] using congrArg State.eng (behindHost_traceCore s s a b c d e)

@[simp] theorem traceCore_assay (s : State) (a b c d e : Nat) : (traceCore s a b c d e).1.assay = s.assay := by
  simpa [behindHost] using congrArg State.assay (behindHost_traceCore s s a b c d e)

@[simp] theorem traceCore_pending (s : State) (a b c d e : Nat) : (traceCore s a b c d e).1.pending = s.pending := by
  simpa [behindHost] using congrArg State.pending (behindHost_traceCore s s a b c d e)

@[simp] theorem traceCore_freeCtr (s : State) (a b c d e : Nat) : (traceCore s a b c d e).1.freeCtr = s.freeCtr := by
  simpa [behindHost] using congrArg State.freeCtr (behindHost_traceCore s s a b c d e)

@[simp] theorem begun_pins (op : Nat) (rq : MbReq) (s : State) : (begun op rq s).pins = s.pins := by
  simp [begun, loaded]

@[simp] theorem begun_clk (op : Nat) (rq : MbReq) (s : State) : (begun op rq s).clk = s.clk := by
  simp [begun, loaded]

@[simp] theorem begun_ident (op : Nat) (rq : MbReq) (s : State) : (begun op rq s).ident = s.ident := by
  simp [begun, loaded]

@[simp] theorem begun_fuses (op : Nat) (rq : MbReq) (s : State) : (begun op rq s).fuses = s.fuses := by
  simp [begun, loaded]

@[simp] theorem begun_mem (op : Nat) (rq : MbReq) (s : State) : (begun op rq s).mem = s.mem := by
  simp [begun, loaded]

@[simp] theorem begun_fab (op : Nat) (rq : MbReq) (s : State) : (begun op rq s).fab = s.fab := by
  simp [begun, loaded]

@[simp] theorem begun_sealer (op : Nat) (rq : MbReq) (s : State) : (begun op rq s).sealer = s.sealer := by
  simp [begun, loaded]

@[simp] theorem begun_buddy (op : Nat) (rq : MbReq) (s : State) : (begun op rq s).buddy = s.buddy := by
  simp [begun, loaded]

@[simp] theorem begun_restore (op : Nat) (rq : MbReq) (s : State) : (begun op rq s).restore = s.restore := by
  simp [begun, loaded]

@[simp] theorem begun_job (op : Nat) (rq : MbReq) (s : State) : (begun op rq s).job = s.job := by
  simp [begun, loaded]

@[simp] theorem begun_pow (op : Nat) (rq : MbReq) (s : State) : (begun op rq s).pow = s.pow := by
  simp [begun, loaded]

@[simp] theorem begun_step (op : Nat) (rq : MbReq) (s : State) : (begun op rq s).step = s.step := by
  simp [begun, loaded]

@[simp] theorem begun_eng (op : Nat) (rq : MbReq) (s : State) : (begun op rq s).eng = s.eng := by
  simp [begun, loaded]

@[simp] theorem begun_assay (op : Nat) (rq : MbReq) (s : State) : (begun op rq s).assay = s.assay := by
  simp [begun, loaded]

@[simp] theorem begun_pending (op : Nat) (rq : MbReq) (s : State) : (begun op rq s).pending = s.pending := by
  simp [begun, loaded]

@[simp] theorem begun_freeCtr (op : Nat) (rq : MbReq) (s : State) : (begun op rq s).freeCtr = s.freeCtr := by
  simp [begun, loaded]

end Sys2Proof.Machine
end

