-- ==== Sys2Proof/Laws/Mailbox.lean ====
section
/-! SUPPORT. What a mailbox row does: the request the Foreman copies is the one the host wrote, an accepted command is carried out
and answered, one that a check refuses gets that check's reply, and a BUSY mailbox takes nothing (R391 to R396). -/

namespace Sys2Proof.Machine

theorem bytesOfNat_length (k v : Nat) : (bytesOfNat k v).length = k := by
  induction k generalizing v with
  | zero => rfl
  | succ k ih => simp [bytesOfNat, ih]

theorem natOfBytes_bytesOfNat (k v : Nat) (h : v < 256 ^ k) : natOfBytes (bytesOfNat k v) = v := by
  induction k generalizing v with
  | zero => simp at h; simp [bytesOfNat, natOfBytes, h]
  | succ k ih =>
    have h' : v / 256 < 256 ^ k := by rw [Nat.pow_succ] at h; omega
    simp only [bytesOfNat, natOfBytes, ih _ h', BitVec.toNat_ofNat]
    omega

theorem natFld_requestHeader (op : Nat) (rq : MbReq) (h : op < 65536) :
    requestHeader op rq < 256 ^ 16 ∧ natFld (requestHeader op rq) 15 0 = op ∧
      natFld (requestHeader op rq) 31 16 = rq.tag.toNat ∧ natFld (requestHeader op rq) 47 32 = rq.length.toNat ∧
      (requestHeader op rq).testBit 48 = rq.notify := by
  have h1 := rq.tag.isLt
  have h2 := rq.length.isLt
  have h3 := rq.rsv.isLt
  have h4 : bit rq.notify ≤ 1 := by cases rq.notify <;> decide
  have h5 : rq.notify = decide (bit rq.notify = 1) := by cases rq.notify <;> rfl
  have e : requestHeader op rq = op + rq.tag.toNat * 65536 + rq.length.toNat * 4294967296 + bit rq.notify * 281474976710656 +
    rq.rsv.toNat % 32768 * 562949953421312 + rq.rsv.toNat / 32768 * 18446744073709551616 := rfl
  simp only [natFld, Nat.testBit_eq_decide_div_mod_eq, e]
  generalize bit rq.notify = n at *
  generalize rq.tag.toNat = t at *
  generalize rq.length.toNat = l at *
  generalize rq.rsv.toNat = x at *
  simp only [Nat.reducePow, Nat.reduceAdd, Nat.reduceSub] at *
  refine ⟨by omega, by omega, by omega, by omega, ?_⟩
  rw [h5]
  refine decide_eq_decide.2 ?_
  omega

theorem placeHost_mbox (s : State) (ws : List HostWrite) : (placeHost s ws).mbox = s.mbox := by
  unfold placeHost
  induction ws generalizing s with
  | nil => rfl
  | cons x ws ih => exact ih _

theorem placeHost_reach (s : State) (ws : List HostWrite) : hostReaches (placeHost s ws) = hostReaches s := by
  unfold placeHost
  induction ws generalizing s with
  | nil => rfl
  | cons x ws ih => exact ih _

/-- The mailbox after GO: BUSY, with the request in its window (R391 to R394). -/
theorem boxAt_loaded (op : Nat) (rq : MbReq) (s : State) :
    boxAt (loaded op rq s) rq.mailbox.val = { boxAt (placeHost s rq.host) rq.mailbox.val with
      state := 1, ignored := 0,
      window := cellsPut (cellsPut (boxAt (placeHost s rq.host) rq.mailbox.val).window 0 (bytesOfNat 16 (requestHeader op rq))) 16
        (rq.payload.take 4064) } := by
  unfold loaded goBusy
  rw [boxAt_setBox, if_pos rfl, boxAt_setBox, if_pos rfl]

/-- The Foreman copies the request that the host wrote (R393, R394). -/
theorem requestOf_loaded (op : Nat) (rq : MbReq) (s : State) (hop : op < 65536)
    (hq : wholeReq rq = true) : requestOf (loaded op rq s) rq.mailbox.val = (asReq op rq, requestHeader op rq) := by
  obtain ⟨g1, g2, g3, g4, g5⟩ := natFld_requestHeader op rq hop
  simp only [wholeReq, Bool.and_eq_true, decide_eq_true_eq] at hq
  obtain ⟨q1, q2⟩ := hq
  have tk : rq.payload.take 4064 = rq.payload := List.take_of_length_le q2
  unfold requestOf
  rw [boxAt_loaded op rq s, tk]
  generalize (boxAt (placeHost s rq.host) rq.mailbox.val).window = v at *
  have hh : cellsGet (cellsPut (cellsPut v 0 (bytesOfNat 16 (requestHeader op rq))) 16 rq.payload) 0 16 =
      bytesOfNat 16 (requestHeader op rq) := by
    rw [cellsGet_cellsPut_other _ _ _ _ _ (Or.inl (by omega))]
    have := cellsGet_cellsPut_same v 0 (bytesOfNat 16 (requestHeader op rq))
    rwa [bytesOfNat_length] at this
  have hp : cellsGet (cellsPut (cellsPut v 0 (bytesOfNat 16 (requestHeader op rq))) 16 rq.payload) 16 rq.payload.length =
      rq.payload := cellsGet_cellsPut_same _ _ _
  have hm : min (rq.length.toNat) 4064 = rq.payload.length := by omega
  simp only [windowGet, hh, natOfBytes_bytesOfNat _ _ g1, g2, g3, g4, g5, hm, hp]
  rfl

@[simp] theorem sendVector_mbox (s : State) (v : Nat) : (sendVector s v).mbox = s.mbox := rfl

theorem evq_mbox (s : State) (q : EvqSt) : ({ s with evq := q } : State).mbox = s.mbox := rfl

theorem hostPut_mbox (s : State) (a : Nat) (bs : List Byte) : (hostPut s a bs).mbox = s.mbox := rfl

@[simp] theorem signalVector_mbox (s : State) (v : Nat) : (signalVector s v).mbox = s.mbox := by
  unfold signalVector; repeat' split
  all_goals rfl

@[simp] theorem traceCore_mbox (s : State) (a b c d e : Nat) : (traceCore s a b c d e).1.mbox = s.mbox := by
  unfold traceCore; dsimp only; repeat' split
  all_goals rfl

@[simp] theorem queueEvent_mbox (s : State) (e : EventArgs) : (queueEvent s e).1.mbox = s.mbox := by
  unfold queueEvent; dsimp only; split
  · rw [signalVector_mbox, evq_mbox, hostPut_mbox]
  · exact evq_mbox _ _

@[simp] theorem raiseCore_mbox (s : State) (e : EventArgs) : (raiseCore s e).mbox = s.mbox := by
  unfold raiseCore; dsimp only; repeat' split
  · exact queueEvent_mbox _ _
  · rw [queueEvent_mbox]; exact queueEvent_mbox s e
  · rw [signalVector_mbox]; exact queueEvent_mbox s e
  · exact queueEvent_mbox _ _

@[simp] theorem raiseWrap_mbox (s : State) : (raiseWrap s).mbox = s.mbox := by
  unfold raiseWrap; dsimp only; rw [raiseCore_mbox, traceCore_mbox]

@[simp] theorem trace_mbox (s : State) (a b c d e : Nat) : (trace s a b c d e).mbox = s.mbox := by
  unfold trace; dsimp only; split <;> simp

@[simp] theorem raise_mbox (s : State) (e : EventArgs) : (raise s e).mbox = s.mbox := by
  unfold raise; split <;> simp

theorem boxAt_of_mbox {s t : State} (h : s.mbox = t.mbox) (m : Nat) : boxAt s m = boxAt t m := by
  unfold boxAt; rw [h]

/-- The checks of R396 read the stage, the image's mask and the fuses; those of R403 the fuses and the job. -/
theorem checkRequest_congr {s t : State} (r : Req) (hdr : Nat) (h1 : s.ident = t.ident) (h2 : s.fuses = t.fuses) :
    checkRequest s r hdr = checkRequest t r hdr := by
  unfold checkRequest stageAllows maskedOut; rw [h1, h2]

theorem checkState_congr {s t : State} (r : Req) (h1 : s.fuses = t.fuses) (h2 : s.job = t.job) :
    checkState s r = checkState t r := by
  unfold checkState; rw [h1, h2]

/-- What a mailbox row that finds its window free does: the request is the host's, and the checks decide (R393, R396). -/
theorem mailboxRow_free (op : Nat) (cmd : Command) (rq : MbReq) (s : State) (hop : op < 65536)
    (hq : wholeReq rq = true) (hr : hostReaches s = true) (hb : (boxAt s rq.mailbox.val).state ≠ 1) :
    mailboxRow op cmd rq s =
      match checkRequest s (asReq op rq) (requestHeader op rq) with
      | some rep => finishCommand (begun op rq s) (asReq op rq) rep
      | none =>
        match checkRange (asReq op rq) with
        | some rep => finishCommand (begun op rq s) (asReq op rq) rep
        | none =>
          match checkState s (asReq op rq) with
          | some rep => finishCommand (begun op rq s) (asReq op rq) rep
          | none =>
            match (cmd (begun op rq s) (asReq op rq)).2.busy with
            | some f => setBox (cmd (begun op rq s) (asReq op rq)).1 rq.mailbox.val
                { boxAt (cmd (begun op rq s) (asReq op rq)).1 rq.mailbox.val with inflight := some f }
            | none => finishCommand (cmd (begun op rq s) (asReq op rq)).1 (asReq op rq) (cmd (begun op rq s) (asReq op rq)).2 := by
  have hb' : ¬ (boxAt (placeHost s rq.host) rq.mailbox.val).state = 1 := by
    rw [boxAt_of_mbox (placeHost_mbox s rq.host)]; exact hb
  unfold mailboxRow
  simp only [placeHost_reach, hr, Bool.not_true, Bool.false_eq_true, if_false, hb']
  unfold runCommand
  have hreq := requestOf_loaded op rq s hop hq
  unfold loaded at hreq
  rw [hreq]
  have e : trace (loaded op rq s) 1 0 op (rq.mailbox.val * 65536 + rq.tag.toNat) 0 = begun op rq s := rfl
  unfold loaded at e
  simp only [asReq] at e ⊢
  rw [e]
  rw [checkRequest_congr _ _ (begun_ident op rq s) (begun_fuses op rq s),
    checkState_congr _ (begun_fuses op rq s) (begun_job op rq s)]
  try rfl

/-- An accepted command is carried out in the state `begun`, and its reply is written unless it stays in progress. -/
theorem mailboxRow_accepted (op : Nat) (cmd : Command) (rq : MbReq) (s : State) (hop : op < 65536)
    (ha : accepted op rq s = true) :
    mailboxRow op cmd rq s =
      match (cmd (begun op rq s) (asReq op rq)).2.busy with
      | some f => setBox (cmd (begun op rq s) (asReq op rq)).1 rq.mailbox.val
          { boxAt (cmd (begun op rq s) (asReq op rq)).1 rq.mailbox.val with inflight := some f }
      | none => finishCommand (cmd (begun op rq s) (asReq op rq)).1 (asReq op rq) (cmd (begun op rq s) (asReq op rq)).2 := by
  simp only [accepted, Bool.and_eq_true, Option.isNone_iff_eq_none, bne_iff_ne] at ha
  obtain ⟨⟨⟨⟨⟨h1, h2⟩, h3⟩, h4⟩, h5⟩, h6⟩ := ha
  rw [mailboxRow_free op cmd rq s hop h1 h2 h3, h4, h5, h6]

@[simp] theorem notifyDone_mbox (s : State) (r : Req) (rep : Reply) : (notifyDone s r rep).mbox = s.mbox := by
  unfold notifyDone; split <;> simp

/-- The mailbox of a command that ends: DONE, the reply in its window (R393, R394). -/
theorem boxAt_finishCommand (s : State) (r : Req) (rep : Reply) :
    boxAt (finishCommand s r rep) r.box = { boxAt s r.box with
      window := cellsPut (cellsPut (boxAt s r.box).window 0 (bytesOfNat 16 (replyHeader r rep).toNat)) 16 (rep.body.take 4064),
      state := 2, inflight := none } := by
  unfold finishCommand
  rw [boxAt_of_mbox ((notifyDone_mbox _ _ _).trans (trace_mbox _ _ _ _ _ _))]
  unfold putReply
  rw [boxAt_setBox, if_pos rfl]

/-- One field of a record more. -/
theorem foldl_pack (a hi lo x : Nat) (l : List (Nat × Nat × Nat)) :
    ((hi, lo, x) :: l).foldl (fun acc f => acc + f.2.2 % 2 ^ (f.1 + 1 - f.2.1) * 2 ^ f.2.1) a =
      l.foldl (fun acc f => acc + f.2.2 % 2 ^ (f.1 + 1 - f.2.1) * 2 ^ f.2.1) (a + x % 2 ^ (hi + 1 - lo) * 2 ^ lo) := by
  rw [List.foldl_cons]

theorem toNat_replyHeader (r : Req) (rep : Reply) (ho : r.op < 65536) (ht : r.tag < 65536) :
    (replyHeader r rep).toNat = r.op + r.tag * 65536 + (rep.body.take 4064).length % 65536 * 4294967296 +
      bit r.notify * 281474976710656 + rep.status % 256 * 18446744073709551616 + rep.cond % 256 * 4722366482869645213696 +
      rep.item % 4294967296 * 79228162514264337593543950336 := by
  have hbit : bit r.notify ≤ 1 := by cases r.notify <;> decide
  unfold replyHeader packRec
  generalize (rep.body.take 4064).length = l
  generalize bit r.notify = n at *
  generalize r.op = o at *
  generalize r.tag = g at *
  generalize rep.status = st
  generalize rep.cond = c
  generalize rep.item = i
  rw [BitVec.toNat_ofNat, foldl_pack, foldl_pack, foldl_pack, foldl_pack, foldl_pack, foldl_pack, foldl_pack, List.foldl_nil]
  simp only [Nat.reducePow, Nat.reduceAdd, Nat.reduceSub]
  omega

/-- The reply header names the command and carries its status (R394). -/
theorem answered_finishCommand (s : State) (r : Req) (rep : Reply) (ho : r.op < 65536)
    (ht : r.tag < 65536) : answered (finishCommand s r rep) r.box r.op r.tag rep.status := by
  have hb := boxAt_finishCommand s r rep
  obtain ⟨hdr, e⟩ : ∃ hdr, hdr = replyHeader r rep := ⟨_, rfl⟩
  rw [← e] at hb
  have hdr16 : (bytesOfNat 16 hdr.toNat).length = 16 := bytesOfNat_length _ _
  have part : ∀ i n, i + n ≤ 16 → windowGet (boxAt (finishCommand s r rep) r.box) i n = ((bytesOfNat 16 hdr.toNat).drop i).take n := by
    intro i n h
    rw [hb]
    unfold windowGet
    dsimp only
    rw [cellsGet_cellsPut_other _ _ _ _ _ (Or.inl (by omega))]
    have := cellsGet_cellsPut_part (boxAt s r.box).window 0 i n (bytesOfNat 16 hdr.toNat) (by omega)
    rwa [Nat.zero_add] at this
  have hbit : bit r.notify ≤ 1 := by cases r.notify <;> decide
  have hv := toNat_replyHeader r rep ho ht
  rw [← e] at hv
  refine ⟨by rw [hb], ?_, ?_⟩
  · rw [part 0 4 (by omega)]
    simp only [bytesOfNat, List.drop_zero, List.take_succ_cons, List.take_zero, List.cons_append, List.nil_append, hv]
    simp only [List.cons.injEq, and_true, ← BitVec.toNat_inj, BitVec.toNat_ofNat, Nat.reducePow]
    omega
  · rw [part 8 1 (by omega)]
    simp only [bytesOfNat, List.drop_succ_cons, List.drop_zero, List.take_succ_cons, List.take_zero, hv]
    simp only [List.cons.injEq, and_true, ← BitVec.toNat_inj, BitVec.toNat_ofNat, Nat.reducePow]
    omega

end Sys2Proof.Machine
end

