-- ==== Sys2Proof/WellFormed.lean ====
section
/-! DEFINITION. Which operands a command can carry on the real interface. The machine gives every command a
meaning whether or not it is well formed; these checks say which ones a sender can produce. -/

namespace Sys2Proof

/-- A mailbox payload and its LENGTH fit the window (R391, R394), and every host write lies in 64-bit space. -/
def MbReq.wf (rq : MbReq) : Bool :=
  decide (rq.payload.length ≤ 4064) && rq.host.all fun w => decide (w.addr.toNat + w.bytes.length ≤ 2 ^ 64)

/-- A frame carries as many lines as its LEN says, at most 64 (R312). -/
def Frame.wf (f : Frame) : Bool :=
  let len := f.header.toNat / 2 ^ 56 % 2 ^ 7
  decide (f.lines.length = len) && decide (len ≤ 64)

/-- A configuration write asks for a size the Resizable BAR capability offers (R433). -/
def CfgWrite.wf : CfgWrite → Bool
  | .bar2Size n => decide (36 ≤ n) && decide (n ≤ 40)
  | .busMaster _ => true
  | .memDecode _ => true

/-- The number of units a level of the gate tree has (R459). -/
def GateLevel.count : GateLevel → Nat
  | .die => 2
  | .guild => 16
  | .workshop => 128
  | .loom => 512

/-- The mailbox request of a mailbox row. -/
def Instr.request? : Instr → Option MbReq
  | .identify rq | .attest rq | .lifecycle rq | .fwLoad rq | .config rq | .jobSetup rq | .jobAdmit rq
  | .jobEnd rq | .jobHold rq | .jobResume rq | .jobParam rq | .sealConfig rq | .restoreLocal rq
  | .restorePull rq | .pullServe rq | .tensorCreate rq | .tensorSetFreeze rq | .tensorSetUnfreeze rq
  | .tensorSetPinScale rq | .tensorSetUnpinScale rq | .tensorSetClearHistory rq | .tensorSetS rq
  | .optsetWrite rq | .pin rq | .waybillLoad rq | .planLoad rq | .stepDispatch rq | .groupWrite rq
  | .groupInvalidate rq | .routeWrite rq | .overrideSet rq | .overrideRemove rq | .opSet rq | .powerCap rq
  | .gateOff rq | .gateOn rq | .stateRead rq | .counterSnapshot rq | .traceConfig rq => some rq
  | _ => none

/-- The frame of a received-frame row. -/
def Instr.frame? : Instr → Option Frame
  | .linkFrame _ f | .collFrame _ f | .stageQueueDataFrame _ f | .creditReturn _ f | .voteFrame _ f
  | .tagOnlyFrame _ f | .barrierFrame _ f | .sealPageFrame _ f | .sealJournalFrame _ f
  | .sealRecordFrame _ f | .sealMarkerFrame _ f | .sealAckFrame _ f | .sealSecuredFrame _ f
  | .sealCommitFrame _ f | .sealDiscardFrame _ f | .sealPullFrame _ f | .sealPulledFrame _ f
  | .sealReserveFrame _ f => some f
  | _ => none

/-- The operands of a command are ones its sender can produce. -/
def Instr.wf (i : Instr) : Bool :=
  (match i.request? with | some rq => rq.wf | none => true) &&
  (match i.frame? with | some f => f.wf | none => true) &&
  (match i with
   | .pcieConfigWrite w => w.wf
   | .bar2Read _ n => decide (0 < n)
   | .bar2Write _ bytes => decide (bytes ≠ [])
   | .gateCloseComplete level index => decide (index < level.count)
   | .thermalSample readings => decide (readings.length = 144)
   | .registerWrite offset wide _ => decide (offset.toNat % (if wide then 8 else 4) = 0)
   | _ => true)

end Sys2Proof
end

