-- ==== Sys2Proof/Tests/Slice0.lean ====
section
/-! SUPPORT. Tests: examples worked out in the spec or by hand from its rules, the well-formedness checks, and for each statement with
hypotheses a state and operands that meet them (named witness_<statement>). -/

namespace Sys2Proof.Tests

open Sys2Proof Sys2Proof.Machine

set_option Elab.async false

/-! ### States and requests that the tests use -/

/-- A module that is Ready and Deployed, address 1, its host link up. -/
def base : State :=
  { State.reset with
    clk := ⟨1000, true, false, true, false, 16, 0, none, 7, none⟩
    ident := { IdentSt.initial 0 with stage := 2, fabricAddr := 1, lcMask := 0x1F }
    fuses := ⟨7, 0, 3, [(1, true), (2, true)], 5, false, [], false, 0x10⟩
    pcie := { PcieSt.initial with linkUp := true, busMaster := true, memDecode := true }
    pins := { State.reset.pins with vin := 4800, slotId := 5 } }

/-- Group 0: this module (address 1, rank 0) and another (address 2, rank 1). -/
def grp : GroupRec := ⟨packRec 256 [(12, 12, 1), (30, 16, 2), (63, 32, 1)], [0x000001, 0x010002]⟩

/-- A seal descriptor whose buddy is module 2. -/
def sealOf : BitVec 256 := packRec 256 [(15, 0, 2), (31, 16, 0xFFFF), (63, 48, 1), (127, 96, 8), (159, 128, 8), (191, 160, 1)]

/-- The same module with group 0. -/
def grouped : State := { base with fab := { FabSt.initial with groups := [(0, grp)] } }

/-- The same with a job in a state. -/
def job (st : Nat) : State :=
  { grouped with job := { JobSt.none with state := st, sealDesc := sealOf, lastBegun := 4, t0 := 4 }, ident := { grouped.ident with jobStep := 4 } }

/-- A request with a payload to a mailbox. -/
def req (box : Fin 4) (p : List Byte) : MbReq := ⟨box, 0x1234, BitVec.ofNat 16 p.length, false, 0, p, []⟩

/-- n zero bytes. -/
def zeros (n : Nat) : List Byte := List.replicate n 0

/-! ### Examples of the spec -/

/-- R306: the test vector. -/
theorem test_lane_draw : laneDraw 0 0 = 0xFA8A11D6 := by decide +kernel

/-- 01_formats.md: a weight rounded to B4, and its scale. -/
theorem test_weight_to_b4 :
    scaleFor .b4 (bf16Val 0x3E40) = (0x3E40, false) ∧
    (convert .b4 (bf16Val 0x3E40) rFast .nearest (numFin false ⟨3, -5⟩)).code = 4 := by decide +kernel

/-- 01_formats.md: a gradient rounded to L8 with two draws. -/
theorem test_gradient_to_l8 :
    (convert .l8 ⟨1, -10⟩ rFast (.stochastic 0x1F000000) (numFin true ⟨25, -11⟩)).code = 0xFE ∧
    (convert .l8 ⟨1, -10⟩ rFast (.stochastic 0x30000000) (numFin true ⟨25, -11⟩)).code = 0xFD := by decide +kernel

/-- 01_formats.md: staging rounds to odd, so that the second rounding is that of the exact value 1 + 2^-4 + 2^-12. -/
theorem test_round_to_odd :
    (convert .bf16 (dyNat 1) rFast .odd (numFin false ⟨4353, -12⟩)).code = 0x3F89 ∧
    (convert .f8a (dyNat 1) rFast .nearest (decode .bf16 true 0x3F89)).code = 0x39 ∧
    (convert .f8a (dyNat 1) rFast .nearest (decode .bf16 true 0x3F88)).code = 0x38 := by decide +kernel

/-- 02_cells.md: one L-mode column, from B4 weights and L8 gradients. -/
theorem test_l_mode_column :
    let f := fun (w x : Nat) => lFold .b4 .l8 ⟨0, 0, 0, 0⟩ (elemOf w) (elemOf x)
    let p := f 2 0x5C (f 0xC 0x58 (f 5 0x64 (f 7 0x60 {})))
    p.p = 16670 ∧ p.n = 15904 ∧ lResult (accFold true {} p) = (0x40EC, false) := by decide +kernel

/-- The image of 06_carters.md's convolution stream. -/
def convolution : List Byte :=
  [23, 0] ++ List.replicate 6 0xFF ++ zeros 24 ++ ([0xFFFFFFFFFF700003, 0xFFFFFFFFFFFF0403, 0xFFFFFFFFFFFF0503, 0x0000000000080405,
    0x0000000000080505, 0x801, 0x0000000000800004, 0x0000000000010404, 0x801, 0x0000000000100004, 0x0000000000010504, 0x301,
    0x0000000000800004, 0x0000000000010404, 0x301, 0x0000000000100004, 0x0000000000010504, 0x000000100000C007, 2, 2, 2, 2, 0].map
    fun w => bytesOfNat 8 w).flatten

/-- 06_carters.md: the image passes R211, its first position is padding, and the middle of the kernel at (0, 0) reads element 0. -/
theorem test_convolution_waybill :
    waybillCheck convolution = none ∧
    (waybillAt convolution 0).map emissionPadded = some true ∧
    (waybillAt convolution 64).map (fun e => (emissionPadded e, e.regs.r.getD 0 0, e.j)) = some (false, 0, 0) := by decide +kernel

/-- 07_memory.md: where the example's line lies, and the check of its first word read back in four ways. -/
theorem test_line_translated :
    entryAddr 0xA41061C5C0 = some (storeOf 3 + 0x400000 + 0x29040) ∧
    physOf 0xA41061C5C0 (pmEntry false 1 false 6 0x1234 0) = 24 * 2 ^ 34 + 0x91A07140 := by decide +kernel

theorem test_word_checked :
    let d := 2 ^ 100 + 0x21
    writeMeta d 3 false = 0x0C61 ∧ writeMeta d 3 true = 0x0F9E ∧
    (readWord 0x21 0x0C61).cls = .corrected ∧ (readWord 0x21 0x0C61).data = d ∧ (readWord (2 ^ 100) 0x0C61).cls = .uncorrectable ∧
    (readWord d 0x0F9E).cls = .poisoned ∧ (readWord d (0x0F9E ^^^ writeMeta 0 0 true ^^^ 0x1FF)).cls = .poisoned := by decide +kernel

/-- 08_update_mill.md: element 1 of the record, its parameter and its first moment. -/
theorem test_mill_element :
    let c : MillConst := ⟨0x3C800000, 0x3F600000, 0x3F400000, 0x3F000000, 0x30800000, 0x3D800000, 0x3E000000, 0x3E800000,
      f32One, f32One, 0x3E800000, 0x3D800000, 0, 0, 0⟩
    let u := millElem c (f32OfBf16 0x3F00) (momentDec 0xF7 0x28 0x3F80) (gradDec false 0x3F00 0x68) 0x3E800000
    (sr16 u.pn 0x9A000000).code = 0x3EFE ∧ u.m1n = f32OfDy ⟨51, -9⟩ ∧
    ((blockEncode 0x3F80 [u.m1n] [0]).1, (blockEncode 0x3F80 [u.m1n] [0]).2.1) = (0xF6, [0x66]) := by decide +kernel

/-- 16_observation.md: a wrapped ring of CAP 65,536 with WR 200,000; slot 0 shows record 150,000 of it. -/
theorem test_trace_after_wrap :
    let s : State := { base with obs := { base.obs with pages := 1, wr := 200000, rdBase := 150000, ring := [(150000 % 65536, 150000)] } }
    traceCap s = 65536 ∧
    (match exec (.traceSlotRead 0) s with | .next t => decide (natOfBytes t.pcie.readOut = 0x249F0) | _ => false) = true := by decide +kernel

/-- R393, R394, R406: IDENTIFY through mailbox A is DONE with status 0, opcode and tag repeated, MODEL_ID first. -/
theorem test_identify :
    (match step { base with pending := [.identify (req 0 [])] } with
     | .next t => (boxAt t 0).state == 2 && windowGet (boxAt t 0) 0 4 == [0x01, 0x00, 0x34, 0x12] && windowGet (boxAt t 0) 8 1 == [0] &&
         replyBytes t 0 2 == [0xE1, 0x5C] && t.pending == []
     | _ => false) = true := by decide +kernel

/-! ### Well-formedness: each check refuses a term -/

theorem test_wf_requests :
    (Instr.identify ⟨0, 0, 0, false, 0, zeros 4065, []⟩).wf = false ∧
    (Instr.identify ⟨0, 0, 0, false, 0, [], [⟨BitVec.ofNat 64 (2 ^ 64 - 1), [1, 2]⟩]⟩).wf = false ∧
    (Instr.identify (req 0 [])).wf = true := by decide +kernel

theorem test_wf_frames :
    (Instr.linkFrame 0 ⟨packRec 256 [(62, 56, 1)], [], 0⟩).wf = false ∧
    (Instr.linkFrame 0 ⟨packRec 256 [(62, 56, 65)], List.replicate 65 0, 0⟩).wf = false ∧
    (Instr.linkFrame 0 ⟨0, [], 0⟩).wf = true := by decide +kernel

theorem test_wf_others :
    (Instr.pcieConfigWrite (.bar2Size 41)).wf = false ∧ (Instr.pcieConfigWrite (.bar2Size 35)).wf = false ∧
    (Instr.bar2Read 0 0).wf = false ∧ (Instr.bar2Write 0 []).wf = false ∧ (Instr.gateCloseComplete .guild 16).wf = false ∧
    (Instr.thermalSample []).wf = false ∧ (Instr.registerWrite 4 true 0).wf = false ∧ (Instr.registerWrite 2 false 0).wf = false ∧
    (Instr.gateCloseComplete .guild 15).wf = true := by decide +kernel

/-! ### Witnesses of the mailbox statements -/

theorem witness_BusyMailboxIgnores :
    let s := setBox base 2 { Mailbox.idle with state := 1 }
    mailboxOf (.pin (req 2 [0, 0, 0, 0])) = some (0x0023, req 2 [0, 0, 0, 0]) ∧ hostReaches s = true ∧ (boxAt s 2).state = 1 := by
  decide +kernel

theorem witness_RequestChecked :
    wholeReq (req 0 []) = true ∧ hostReaches base = true ∧ (boxAt base 0).state ≠ 1 ∧
      (checkRequest base (asReq 0x0023 (req 0 [])) (requestHeader 0x0023 (req 0 []))) = some (status WRONG_MAILBOX) := by decide +kernel

theorem witness_CheckOrder :
    (cmdShape 0x0023).isSome = true ∧ stageAllows base 2 0x0023 = true ∧
      lengthSuits 0x0023 ⟨[2], [1, 2, 3], 4, [(0, 4)], [], none⟩ [0, 0, 0, 0] 4 = true ∧
      natFld (requestHeader 0x0023 { req 2 [0, 0, 0, 0] with rsv := 1 }) 55 49 ≠ 0 := by decide +kernel

theorem witness_GrantedCompletes :
    granted 0x0001 (req 0 []) base = true ∧ granted 0x0048 (req 3 ([1] ++ zeros 11)) base = true := by decide +kernel

theorem witness_ModuleReads :
    accepted 0x0001 (req 3 []) base = true ∧ accepted 0x0048 (req 3 ([1] ++ zeros 11)) base = true ∧
      accepted 0x0049 (req 3 [0, 0, 1, 0]) base = true ∧ granted 0x004A (req 2 (zeros 12)) base = true := by decide +kernel

theorem witness_ConfigSets :
    accepted 0x0005 (req 0 [1, 0, 9, 0, 0, 0, 0, 0]) base = true ∧ (∀ p < 24, (portAt base p).state = 0) ∧
      accepted 0x0005 (req 0 [1, 0, 9, 0, 0, 0, 0, 0]) (setPort base 23 { PortSt.down with state := 2 }) = true ∧
      (portAt (setPort base 23 { PortSt.down with state := 2 }) 23).state ≠ 0 := by decide +kernel

/-- JOB_SETUP's payload: GROUP 0 as barrier group and the seal descriptor above. -/
def setupPayload : List Byte := zeros 12 ++ [0, 0, 0xFF, 0xFF] ++ zeros 16 ++ bytesOfNat 32 sealOf.toNat

theorem witness_JobSetupOpens : granted 0x0010 (req 0 setupPayload) grouped = true := by decide +kernel

theorem witness_JobEndClears : accepted 0x0012 (req 2 []) (job 2) = true ∧ accepted 0x0012 (req 0 []) (job 4) = true := by
  decide +kernel

theorem witness_JobHeldAndResumed :
    let held : State := { job 3 with job := { (job 3).job with cause := 3 } }
    accepted 0x0013 (req 0 []) (job 2) = true ∧ accepted 0x0014 (req 0 []) held = true ∧ held.job.cause = 3 ∧ held.job.dueHold = 0 ∧
      accepted 0x0014 (req 0 []) (job 3) = true ∧ (job 3).job.cause ≠ 3 := by decide +kernel

/-! ### Waiting changes, objects and plans -/

/-- A descriptor of tensor 5: Int8, activation kind, local, 64 bytes at address 0. -/
def tensor5 : BitVec 512 := packRec 512 [(31, 0, 5), (35, 32, 7), (37, 36, 3), (47, 47, 1), (159, 112, 64)]

/-- A running job with tensor 5, optimiser set 0 and steered layer 1. -/
def rich (st : Nat) : State :=
  let s := job st
  let l : SteerLayer := ⟨1, packRec 384 [(15, 0, 1)], packRec 2048 [(3, 0, 4), (7, 4, 4)], [], [], 0, 0, []⟩
  { s with job := { s.job with tensors := [(5, newTensor tensor5)], optsets := [(0, 0)], steer := [l], overrides := [(256, 0)] } }

/-- The same with a step under way. -/
def stepping : State := let s := rich 2; { s with step := { s.step with active := true, phase := 1, number := 5 } }

/-- An optimiser set that R265 admits: every rate 0, epsilon 1. -/
def optsetBytes : List Byte := zeros 8 ++ zeros 16 ++ [0, 0, 0x80, 0x3F] ++ zeros 12

theorem witness_BoundaryChangeWaits :
    (waitingChange (rich 1) (.jobParam (req 2 (zeros 8)))).isSome = true ∧ granted 0x0015 (req 2 (zeros 8)) (rich 1) = true ∧
    (waitingChange (rich 2) (.pin (req 2 [1, 0, 4, 4]))).isSome = true ∧ granted 0x0023 (req 2 [1, 0, 4, 4]) (rich 2) = true ∧
    (∀ k ∈ [1, 2, 3, 4, 5, 6], granted 0x0021 (withAction (req 2 [5, 0, 0, 0, 0, 0, 0x80, 0x3F]) 4 k) (rich 2) = true) := by
  decide +kernel

theorem witness_BoundaryChangeWaits_step :
    (waitingChange stepping (.optsetWrite (req 2 optsetBytes))).isSome = true ∧ granted 0x0022 (req 2 optsetBytes) stepping = true ∧
    (waitingChange stepping (.opSet (req 0 [0, 0]))).isSome = true ∧ granted 0x0040 (req 0 [0, 0]) stepping = true ∧
    (waitingChange stepping (.powerCap (req 0 [0x90, 1, 0]))).isSome = true ∧ granted 0x0041 (req 0 [0x90, 1, 0]) stepping = true ∧
    granted 0x003A (withAction (req 2 ([0, 1] ++ zeros 17 ++ [3] ++ zeros 4)) 2 0) stepping = true ∧
    granted 0x003A (withAction (req 2 ([0, 1] ++ zeros 22)) 2 1) stepping = true := by decide +kernel

theorem witness_TensorSetTakesEffect :
    (tensorOf (rich 1) 5).isSome = true ∧
    (∀ k ∈ [1, 2, 3, 4, 5, 6], granted 0x0021 (withAction (req 2 [5, 0, 0, 0, 0, 0, 0x80, 0x3F]) 4 k) (rich 1) = true) := by
  decide +kernel

theorem witness_ChangeAtOnce :
    (rich 2).step.active = false ∧ granted 0x0022 (req 2 optsetBytes) (rich 2) = true ∧
    granted 0x0040 (req 0 [2, 0]) (rich 2) = true ∧ granted 0x0041 (req 0 [0xE2, 4, 0]) (rich 2) = true := by decide +kernel

theorem witness_SealConfigAndServe :
    granted 0x0018 (req 0 (bytesOfNat 32 sealOf.toNat)) (job 1) = true ∧
    granted 0x001A (req 0 [9, 0, 0, 0, 1, 0, 0, 0])
      { job 2 with job := { (job 2).job with sealDesc := setFld sealOf 31 16 2 } } = true := by decide +kernel

theorem witness_ObjectsCreated :
    granted 0x0020 (req 2 (bytesOfNat 64 (setFld tensor5 31 0 6 ||| packRec 512 [(111, 64, 0x200000)]).toNat)) (rich 1) = true ∧
    granted 0x0028 (req 2 (zeros 8 ++ [1] ++ zeros 1 ++ [0xFF, 0xFF, 0xFF, 0xFF, 0xFF, 0xFF] ++ zeros 32)) (rich 1) = true := by
  decide +kernel

/-- A plan entry: a vector operation that waits for nothing, VOP 1 (FMT_IN and FMT_OUT binary32), one workshop. -/
def vecEntry : Entry := packRec 2048 [(3, 0, 1), (31, 16, 0xFFFF), (47, 32, 0xFFFF), (63, 48, 0xFFFF), (79, 64, 0xFFFF),
  (141, 138, 14), (145, 142, 14), (223, 192, 1), (238, 231, 1)]

/-- A running job with one admitted plan. -/
def planned : State :=
  let s := rich 2
  { s with job := { s.job with plans := [(0, ⟨[vecEntry], true, 0, 0, [], []⟩)] } }

theorem witness_ObjectsCreated_plan :
    granted 0x0029 (req 2 ([1, 0, 1, 0, 0, 0, 0, 0] ++ bytesOfNat 8 hostBase))
      { rich 1 with pcie := { (rich 1).pcie with hostMem := cellsPut [] 0 (bytesOfNat 256 vecEntry.toNat) } } = true := by
  decide +kernel

theorem witness_StepDispatched : granted 0x0030 (req 1 ([0, 0] ++ bytesOfNat 6 5 ++ bytesOfNat 8 77 ++ zeros 12)) planned = true := by
  decide +kernel

theorem witness_TablesWritten :
    granted 0x0038 (withAction (req 2 ([1, 0, 0, 0, 48, 0, 0, 0] ++ bytesOfNat 8 hostBase)) 1 0)
      { base with pcie := { base.pcie with hostMem := cellsPut [] 0 (bytesOfNat 48 (packRec 384 [(7, 0, 1), (12, 12, 1), (30, 16, 2), (63, 32, 1),
        (271, 256, 1), (335, 320, 2), (359, 336, 1)]).toNat) } } = true ∧
    granted 0x0038 (withAction (req 2 (zeros 16)) 1 1) grouped = true ∧
    granted 0x0039 (req 2 ([0, 1, 0, 0, 2, 0, 0, 0] ++ bytesOfNat 8 hostBase)) base = true ∧
    (let w := setBox base 0 { boxAt base 0 with state := 1, inflight := some .restore }
     let rq := req 2 ([0, 1, 0, 0, 2, 0, 0, 0] ++ bytesOfNat 8 hostBase)
     accepted 0x0039 rq w = true ∧ restoreRuns (begun 0x0039 rq w) = true) := by decide +kernel

/-- A ROUTE_WRITE that waited for a RESTORE runs when that ends (R400). -/
theorem test_route_write_waits :
    let w := setBox base 0 { boxAt base 0 with state := 1, inflight := some .restore }
    let t := mailboxRow 0x0039 cmdRouteWrite (req 2 ([7, 0, 0, 0, 1, 0, 0, 0] ++ bytesOfNat 8 hostBase))
      { w with pcie := { w.pcie with hostMem := cellsPut [] 0 [0x20] } }
    ((boxAt t 2).state, mapGet t.fab.routes 7 0) = (1, 0) ∧
    ((boxAt (endRestore t 0 (done [])) 2).state, mapGet (endRestore t 0 (done [])).fab.routes 7 0) = (2, 0x20) := by decide +kernel

theorem witness_GateMoves :
    accepted 0x0042 (withAction (req 2 [4, 0, 9, 0]) 1 0) base = true ∧ gateAt base 4 9 = 1 ∧ gateRefusal base 4 9 = none ∧
    accepted 0x0042 (withAction (req 2 [3, 0, 2, 0]) 1 1) (setGate base 3 2 0) = true := by decide +kernel

theorem witness_LifecycleBegins :
    accepted 0x0003 (req 0 ([3] ++ zeros 19)) base = true ∧ transition (lifecycleOf base.fuses) 3 = some false ∧
    base.fuses.lcLog.length < 16 ∧ lifecycleOf base.fuses ≠ 1 := by decide +kernel

theorem witness_RestoresBegin_pull :
    accepted 0x0019 (withAction (req 0 ([1] ++ zeros 13)) 0 1) (job 3) = true ∧ (job 3).job.state ≠ 1 := by decide +kernel

/-! ### Admission -/

/-- The job in SETUP whose plan 0 is loaded; its power cap is above any figure. -/
def admitting : State :=
  let s := rich 1
  { s with job := { s.job with plans := [(0, ⟨[vecEntry], false, 0, 0, [], []⟩)], steer := [], overrides := [] }, pow := { s.pow with cap := 2 ^ 36 } }

/-- Its JOB_ADMIT: one plan, no layer, buffer or stage queue. -/
def admitReq : MbReq := req 0 (zeros 29 ++ [1, 0, 0] ++ zeros 16)

theorem freeBelow_pow (s : State) (n : Nat) : (freeBelow s n).1.pow = s.pow := rfl

theorem millNs_pow (s : State) : (millNs s).1.pow = s.pow := by
  unfold millNs
  generalize List.range 16 = l
  suffices ∀ acc : State × Nat, acc.1.pow = s.pow → (l.foldl (fun (acc : State × Nat) g =>
      let elems := fun (k : Nat) => ((s.job.tensors.filter fun e => tdKind e.2.desc == k).map fun e => recordElems s e.2 g).sum
      let (s, touched) := freeBelow acc.1 (elems 2 + 1)
      let (s, stats) := freeBelow s (elems 0 + 3)
      let bytes := ceilDiv (10 * elems 0 + 18 * elems 1 + 10 * touched + 8 * (elems 2 - touched)) 4
      (s, max acc.2 (channelNs s 1 bytes + stats))) acc).1.pow = s.pow from this (s, 0) rfl
  induction l with
  | nil => intro acc h; exact h
  | cons a l ih => intro acc h; exact ih _ h

theorem boundaryNs_ge (s : State) (es : List Entry) : 200000 ≤ boundaryNs s es := by
  unfold boundaryNs
  rw [Nat.add_assoc]
  exact Nat.le_add_right _ _

theorem planFigures_spec (s : State) (es : List Entry) (o : Nat) :
    (planFigures s es o).1.pow = s.pow ∧ 200000 ≤ (planFigures s es o).2.1 ∧ (planFigures s es o).2.2 < 2 ^ 32 := by
  unfold planFigures
  have hp := millNs_pow s
  rcases h : millNs s with ⟨t, m⟩
  rw [h] at hp
  dsimp only [freeBelow]
  refine ⟨hp, ?_, Nat.mod_lt _ (by decide)⟩
  have := boundaryNs_ge { t with freeCtr := t.freeCtr + 1 } es
  generalize boundaryNs _ es = b at this ⊢
  omega

/-- Under this cap a plan without deadline or energy budget fits, whatever its estimate comes to. -/
theorem figured_fits (s : State) (p : Plan) (o cap : Nat) (hd : p.deadline = 0) (he : p.energy = 0) (ho : o < 3) (hc : 2 ^ 36 ≤ cap) :
    planFails (figured s p).2 o cap = none ∧ (figured s p).1.pow = s.pow := by
  have fits : ∀ g e : Nat, 200000 ≤ g → e < 2 ^ 32 → ¬ cap * g < e * 1000000 := fun g e hg he => by
    have h1 : 2 ^ 36 * 200000 ≤ cap * g := Nat.mul_le_mul hc hg
    omega
  have hl : List.range 3 = [0, 1, 2] := rfl
  unfold figured
  rw [hl]
  simp only [List.foldl_cons, List.foldl_nil, List.nil_append, List.cons_append]
  have k0 := planFigures_spec s p.entries 0
  rcases h0 : planFigures s p.entries 0 with ⟨s0, g0, e0⟩
  rw [h0] at k0
  have k1 := planFigures_spec s0 p.entries 1
  rcases h1 : planFigures s0 p.entries 1 with ⟨s1, g1, e1⟩
  rw [h1] at k1
  have k2 := planFigures_spec s1 p.entries 2
  rcases h2 : planFigures s1 p.entries 2 with ⟨s2, g2, e2⟩
  rw [h2] at k2
  refine ⟨?_, k2.1.trans (k1.1.trans k0.1)⟩
  unfold planFails
  simp only [hd, he, ne_eq, not_true_eq_false, false_and, if_false]
  match o, ho with
  | 0, _ => exact if_neg (fits g0 e0 k0.2.1 k0.2.2)
  | 1, _ => exact if_neg (fits g1 e1 k1.2.1 k1.2.2)
  | 2, _ => exact if_neg (fits g2 e2 k2.2.1 k2.2.2)

/-- The figures of a job of one plan. -/
theorem figurePlans_one (s : State) (x : Plan) (h : s.job.plans = [(0, x)]) :
    (figurePlans s 1).pow = (figured s x).1.pow ∧ (figurePlans s 1).job.plans = [(0, (figured s x).2)] := by
  unfold figurePlans
  rw [h]
  generalize figured = f
  exact ⟨rfl, rfl⟩

/-- No plan fails: nothing is refused. -/
theorem admitRefusal_none (s : State) (x : Plan) (o cap : Nat) (h : planFails x o cap = none) :
    admitRefusal s [(0, x)] o cap = (s, none) := by
  unfold admitRefusal
  simp only [List.findSome?_cons, List.findSome?_nil, h, Option.map_none]

/-- A job of one plan without deadline or energy budget, and no layer, buffer or stage queue, is admitted under this cap. -/
theorem admit_fits (s t : State) (r : Req) (x : Plan) (h1 : s.job.admitted = false) (ht : placeArrays s r.payload 1 [] [] [] = t)
    (hn : (byteAt r.payload 29).toNat = 1) (h2 : leAt r.payload 24 2 = 0) (h3 : leAt r.payload 26 2 = 0)
    (h4 : (byteAt r.payload 28).toNat = 0) (hl : (mapFind s.job.plans 0).isNone = false) (hp : t.job.plans = [(0, x)])
    (h8 : admitChecks t [] [] [(0, x)] = none) (h9 : planBad t 0 x = none) (hd : x.deadline = 0) (he : x.energy = 0)
    (ho : t.pow.opNow < 3) (hc : 2 ^ 36 ≤ t.pow.cap) : ∃ body, (cmdJobAdmit s r).2 = done body := by
  have hr : List.range 1 = [0] := rfl
  have hf : firstBad [(29, (1 : Nat) == 0 || decide (8 < 1) || false), (24, decide (4096 < 0)), (26, decide (4096 < 0)),
      (28, decide (64 < 0))] = none := by decide
  have ha : ∀ a n, readArray s a 0 n = (s, some []) := fun _ _ => rfl
  have hq : (figureLayers t).job.plans = [(0, x)] := hp
  have hg := figurePlans_one (figureLayers t) x hq
  have hz := figured_fits (figureLayers t) x t.pow.opNow t.pow.cap hd he ho hc
  have hw : (figurePlans (figureLayers t) 1).pow = t.pow := hg.1.trans hz.2
  have hy := admitRefusal_none (figurePlans (figureLayers t) 1) _ _ _ hz.1
  have hk : ∀ y : Plan, [(0, y)].filter (fun e => decide (e.1 < 1)) = [(0, y)] := fun _ => rfl
  unfold cmdJobAdmit
  dsimp only
  rw [h1, hn, h2, h3, h4, hr, List.any_cons, List.any_nil, hl, Bool.or_false, hf]
  rw [if_neg (by decide)]
  dsimp only
  rw [ha, ha, ha]
  dsimp only
  rw [ht, hp, hk]
  simp only [List.map_nil]
  rw [h8]
  dsimp only [List.findSome?_cons, List.findSome?_nil]
  rw [h9]
  dsimp only
  rw [hg.2, hk, hw, hy]
  exact ⟨_, rfl⟩

/-- The state in which the Foreman checks it, and the same with the arrays placed. -/
def admitStart : State := begun 0x0011 admitReq admitting
def admitPlaced : State := placeArrays admitStart (asReq 0x0011 admitReq).payload 1 [] [] []

theorem admit_accepted : accepted 0x0011 admitReq admitting = true := by decide +kernel
theorem admit_checks : admitChecks admitPlaced [] [] [(0, ⟨[vecEntry], false, 0, 0, [], []⟩)] = none := by decide +kernel
theorem admit_plan : planBad admitPlaced 0 ⟨[vecEntry], false, 0, 0, [], []⟩ = none := by decide +kernel
theorem admit_plans : admitPlaced.job.plans = [(0, ⟨[vecEntry], false, 0, 0, [], []⟩)] := by decide +kernel
theorem admit_first : admitStart.job.admitted = false ∧ (mapFind admitStart.job.plans 0).isNone = false ∧ admitPlaced.pow.opNow < 3 ∧
    2 ^ 36 ≤ admitPlaced.pow.cap := by decide +kernel
theorem admit_fields : (byteAt (asReq 0x0011 admitReq).payload 29).toNat = 1 ∧ leAt (asReq 0x0011 admitReq).payload 24 2 = 0 ∧ leAt (asReq 0x0011 admitReq).payload 26 2 = 0 ∧
    (byteAt (asReq 0x0011 admitReq).payload 28).toNat = 0 := by decide +kernel

theorem admit_granted : ∃ body, (cmdJobAdmit admitStart (asReq 0x0011 admitReq)).2 = done body :=
  admit_fits _ admitPlaced _ _ admit_first.1 rfl admit_fields.1 admit_fields.2.1 admit_fields.2.2.1 admit_fields.2.2.2 admit_first.2.1
    admit_plans admit_checks admit_plan rfl rfl admit_first.2.2.1 admit_first.2.2.2

theorem admit_command : (outcome 0x0011 admitReq admitting).2 = (cmdJobAdmit admitStart (asReq 0x0011 admitReq)).2 := by
  unfold outcome admitStart
  rw [show commandOf 0x0011 = cmdJobAdmit from rfl]

theorem witness_JobAdmitBegins : granted 0x0011 admitReq admitting = true := by
  obtain ⟨body, h⟩ := admit_granted
  unfold granted
  rw [admit_command, h, admit_accepted]
  rfl

/-! ### Restore -/

/-- A seal record of the held job's step 4: no page, and a draw state header alone. -/
def heldRecord : List Byte :=
  let draws := bytesOfNat 8 4 ++ zeros 12 ++ bytesOfNat 4 (genOf (job 3) 4).toNat ++ bytesOfNat 4 drawCountAll ++ zeros 36
  bytesOfNat 8 4 ++ bytesOfNat 4 (genOf (job 3) 4).toNat ++ zeros 10 ++ [1, 0] ++ zeros 4 ++ bytesOfNat 4 (crc32 []) ++ zeros 32 ++
    [3, 0, 0, 0] ++ bytesOfNat 4 (crc32 draws) ++ bytesOfNat 4 64 ++ bytesOfNat 4 128 ++ zeros 48 ++ draws

/-- The held job with that record in staging, its buddy's image of the same generation. -/
def held : State :=
  let s := job 3
  { s with job := { s.job with cause := 2 }, sealer := { SealSt.none with phase := 3, gen := genOf s 4, records := [((genOf s 4).toNat, heldRecord)] } }

/-- Its RESTORE. -/
def restoreReq : MbReq := req 0 ([0] ++ zeros 3 ++ bytesOfNat 4 (genOf (job 3) 4).toNat ++ zeros 6)

theorem witness_RestoresBegin_local : granted 0x0019 (withAction restoreReq 0 0) held = true := by decide +kernel

/-! ### Images -/

/-- A firmware image of 1,024 bytes, SVN 6, signed by the private key 1, whose public key is the base point, with nonce 1. -/
def image : List Byte :=
  bytesOfNat 4 0x5CE10F17 ++ bytesOfNat 4 1 ++ bytesOfNat 4 1024 ++ bytesOfNat 4 0x10002 ++ bytesOfNat 4 0x3F06 ++
    bytesOfNat 4 512 ++ bytesOfNat 4 16 ++ zeros 228 ++ [4] ++ bytesBE 48 curveGx ++ bytesBE 48 curveGy ++ zeros 575 ++
    bytesBE 48 curveGx ++
    bytesBE 48 0x321912ec32bce046ee25b6e2d3e102a0e2ee4d092b6bd0e76dd466edd22b6a1fb99e87b0eb8bb5d8bbb173ca22746753

/-- The module in its boot ROM; the image lies at host address 0, and ROOT_HASH is SHA-384 of its key. -/
def romWith (m : List Host.Cell) : State :=
  { base with
    ident := { base.ident with stage := 0 }
    fuses := { base.fuses with
      rootHash := 0xa698d2942608cd981489f61ea7b34a9c606e4e778f461eac93bd6e4dd1d23898a449d4ea14b617d6f8a49fab761632d1 }
    pcie := { base.pcie with hostMem := m } }

/-- The same with the image at host address 0. -/
def inRom : State := romWith (cellsPut [] 0 image)

/-- Its FW_LOAD. -/
def loadImage : MbReq := req 0 (bytesOfNat 8 hostBase ++ bytesOfNat 4 1024)

theorem trace_off (s : State) (a b c d e : Nat) (h : s.obs.pages = 0) : trace s a b c d e = s := by
  have q : (s.obs.pages == 0) = true := by rw [h]; rfl
  unfold trace traceCore
  simp only [q, Bool.or_true, if_true, Bool.false_eq_true, if_false]

theorem romWith_hostMem (m : List Host.Cell) : (begun 0x0004 loadImage (romWith m)).pcie.hostMem = m := by
  unfold begun
  rw [trace_off _ _ _ _ _ _ rfl]
  rfl

theorem image_is_read : copyImage (begun 0x0004 loadImage inRom) hostBase 1024 = some image := by
  have hm : canMaster (begun 0x0004 loadImage inRom) = true := by decide +kernel
  have ha : pcieAddr (begun 0x0004 loadImage inRom) hostBase = 0 := by decide +kernel
  have hh : (begun 0x0004 loadImage inRom).pcie.hostMem = cellsPut [] 0 image := romWith_hostMem _
  have hl : min 1024 imageMax = image.length := by decide +kernel
  unfold copyImage hostGet
  rw [if_pos hm, ha, hh, hl, cellsGet_cellsPut_same]

theorem image_passes : checkImage (begun 0x0004 loadImage inRom) 1024 image = none := by decide +kernel

theorem witness_ReportsAndImages_image : inRom.ident.stage = 0 ∧ granted 0x0004 loadImage inRom = true := by
  refine ⟨rfl, ?_⟩
  have ha : accepted 0x0004 loadImage inRom = true := by decide +kernel
  have h1 : leAt (asReq 0x0004 loadImage).payload 0 8 = hostBase := by decide +kernel
  have h2 : leAt (asReq 0x0004 loadImage).payload 8 4 = 1024 := by decide +kernel
  have h3 : ¬ ((begun 0x0004 loadImage inRom).ident.stage = 0 ∧ (begun 0x0004 loadImage inRom).ident.verified = true) := by
    decide +kernel
  have ho : (outcome 0x0004 loadImage inRom).2 = done (slice image 12 4) := by
    have hc : commandOf 0x0004 = cmdFwLoad := rfl
    unfold outcome
    rw [hc]
    unfold cmdFwLoad
    simp only [h1, h2, image_is_read, image_passes, if_neg h3]
  unfold granted
  rw [ha, ho]
  simp only [done, Option.isNone_none, Bool.and_self, beq_self_eq_true]

theorem witness_ReportsAndImages_report : granted 0x0002 (req 0 (zeros 32 ++ bytesOfNat 8 hostBase)) base = true := by decide +kernel

/-! ### Registers, resets, supplies, clocks -/

theorem witness_WindowWritten :
    hostReaches base = true ∧ (0x1010 : BitVec 16).toNat = 0x1000 + 0x1000 * 0 + 0x10 ∧ 0x10 % 8 = 0 ∧ (boxAt base 0).state ≠ 1 ∧
    (boxAt (setBox base 3 { Mailbox.idle with state := 1 }) 3).state = 1 ∧ (0x4FF8 : BitVec 16).toNat = 0x1000 + 0x1000 * 3 + 0xFF8 ∧
    (0x2FF0 : BitVec 16).toNat = 0x1000 + 0x1000 * 1 + 0xFF0 ∧ (1 : BitVec 64).toNat.testBit 0 = true ∧
    checkRequest base (requestOf base 1).1 (requestOf base 1).2 = some (status BAD_OPCODE) := by decide +kernel

theorem witness_RegistersAndVectorsWritten :
    hostReaches base = true ∧ (0x44 : BitVec 16).toNat = 64 + 4 * 1 ∧ base.job.state = 0 ∧ (job 2).job.state ≠ 0 ∧ hostReaches (job 2) = true ∧
    (0x8004 : BitVec 16).toNat = 0x8000 + 4 * 1 ∧ base.evq.enable = false ∧ (0x8024 : BitVec 16).toNat = 0x8018 + 4 * 3 ∧
    (0xD00C : BitVec 16).toNat = 0xD008 + 4 * 1 ∧ (0x41 : BitVec 16).toNat % 4 ≠ 0 ∧ (0xE3FC : BitVec 16).toNat = 0xE000 + 16 * 63 + 4 * 3 ∧
    bitOf ({ base with pcie := { base.pcie with pba := 1 <<< 63 } } : State).pcie.pba 63 = true ∧ canMaster base = true := by decide +kernel

theorem witness_EventQueueWritten : hostReaches base = true ∧ base.evq.enable = false ∧ (0x110 : BitVec 64).toNat.testBit 8 = true := by
  decide +kernel

/-- A trace ring of one page with two records. -/
def traced : State := { base with obs := { base.obs with pages := 1, wr := 2, ring := [(0, 7), (1, 9)] } }

theorem witness_LatchingReads :
    hostReaches traced = true ∧ traced.ident.stage ≠ 1 ∧ traced.obs.rdBase.toNat + 1 < traced.obs.wr.toNat ∧
    traced.obs.wr.toNat ≤ traced.obs.rdBase.toNat + 1 + traceCap traced ∧ traced.obs.wr.toNat ≤ traced.obs.rdBase.toNat + 2 := by
  decide +kernel

/-- The module with LPDDR6 page 0 mapped. -/
def mapped : State :=
  match entryAddr 0 with
  | some ea => writeEntry (job 2) ea (pmEntry false 1 false 0 0 0)
  | none => job 2

theorem witness_Bar2Accesses :
    hostReaches mapped = true ∧ mapped.pcie.bar2Log2 = 36 ∧
    (match translate mapped 0 with | (t, some (_, e, p)) => t == mapped && !pmWp e && (readWord (rawData mapped p) (rawMeta mapped p)).cls == .clean
                                   | _ => false) = true ∧
    translate mapped 0x200000 = (mapped, none) := by decide +kernel

theorem witness_SmbusAnswers :
    base.pins.vauxUp = true ∧ ({ base with pins := { base.pins with alert := true } } : State).pins.alert = true ∧ base.pins.alert = false := by
  decide +kernel

/-- The module with PWR_GOOD low. -/
def unpowered : State := { base with pins := { base.pins with pwrGood := false } }

theorem witness_ResetsClear :
    (unpowered.pins.vauxUp = true ∧ unpowered.pins.pwrGood = false) ∧
    (base.pins.vauxUp = true ∧ base.pins.pwrGood = true ∧ base.pins.perstN = true ∧ base.pins.modResetN = true) ∧
    (base.pcie.linkUp = true ∧ stopped base = false ∧ 3 ≤ base.clk.startStep) ∧ foremanUp base = true := by decide +kernel

theorem witness_SuppliesMove :
    base.pins.pwrGood = true ∧ base.pins.vauxUp = true ∧ (3999 : BitVec 16).toNat < 4000 ∧ 6000 < (6001 : BitVec 16).toNat ∧
    base.pins.railsOn = true ∧ 1840 ≤ (1840 : BitVec 16).toNat ∧
    ({ unpowered with pins := { unpowered.pins with vauxUp := false } } : State).pins.vauxUp = false ∧ unpowered.pins.pwrGood = false ∧
    ({ base with pins := { base.pins with railsOn := false, ramping := true } } : State).pins.ramping = true := by decide +kernel

theorem witness_LinkEvents :
    base.pins.railsOn = true ∧ base.pins.perstN = true ∧ base.pins.modResetN = true ∧ base.pcie.linkUp = true ∧
    ({ base with pcie := { base.pcie with memDecode := false } } : State).pcie.memDecode = false ∧ base.pcie.memDecode = true ∧
    base.job.state < 2 ∧ (job 2).job.state = 2 ∧ (job 2).step.active = false ∧ (job 2).pcie.linkUp = true ∧
    ({ base with ident := { base.ident with nmiDue := true } } : State).ident.nmiDue = true ∧ canMaster base = true := by decide +kernel

/-- The module in steps 1 and 2 of start-up, with n good windows. -/
def starting (n : Nat) : State := { base with clk := { base.clk with stable := false, onOsc := true, goodWindows := n, startStep := 1 } }

theorem witness_ClockMonitored :
    (starting 15).clk.running = true ∧ (starting 15).clk.startStep = 1 ∧ (starting 15).clk.missed = false ∧
    (starting 15).pins.hotWait = false ∧ 15 ≤ (starting 15).clk.goodWindows ∧ (starting 0).clk.stable = false ∧
    (base.clk.stable = true ∧ base.clk.onOsc = false ∧ base.clk.running = true) ∧
    ((job 2).clk.stable = true ∧ (job 2).clk.onOsc = false ∧ (job 2).job.state = 2) ∧ (starting 0).ident.resetCause < 3 := by decide +kernel

theorem witness_StartUpGoesOn :
    let wiping : State := { base with mem := { base.mem with wiping := true } }
    let rom : State := { base with ident := { base.ident with stage := 0, verified := true } }
    stopped base = false ∧ ({ base with clk := { base.clk with startStep := 3 } } : State).clk.startStep = 3 ∧
    (wiping.mem.wiping = true ∧ (∀ m, m < 4 → (boxAt wiping m).inflight ≠ some .lifecycle) ∧ wiping.ident.resetCause ≠ 5) ∧
    (rom.ident.stage = 0 ∧ rom.ident.verified = true ∧ bitOf rom.obs.mask 0 = false ∧ rom.clk.dueEvent = none) ∧
    ({ rom with evq := { rom.evq with enable := true, log2n := 8 } } : State).evq.enable = true ∧
    evqFull ({ rom with evq := { rom.evq with enable := true, log2n := 8 } } : State).evq = false := by decide +kernel

/-! ### Frames -/

/-- The same module with port 3 UP. -/
def up (s : State) : State := setPort s 3 { PortSt.down with state := 2, credits := vcBuffers, nextSeq := 0 }

/-- A frame as it arrives next on a port on which nothing has been received: its trailer has LSEQ 0 and the right CRC. -/
def arriving (dest src : Nat) (a : FrameArgs) : Frame :=
  let f := mkFrame { base with ident := { base.ident with fabricAddr := BitVec.ofNat 16 src } } { a with dest := dest }
  let f := { f with trailer := packRec 128 [(103, 96, 2)] }
  { f with trailer := setFld f.trailer 31 0 (frameCrc f) }

theorem witness_PortsMove :
    portsTrain base = true ∧ (portAt base 3).state ≠ 2 ∧ portUp (up base) 3 = true ∧
    (∃ u ∈ (portAt (setPort base 3 { PortSt.down with state := 2, unacked := [⟨arriving 1 2 ⟨0xF, true, 1, 0, 0, 0, 0, 0, 0, []⟩, 4, 8⟩] }) 3).unacked,
      8 ≤ u.replays) := by decide +kernel

theorem witness_FramesSent :
    let f := mkFrame base { type := 2, dest := 2, op := 0 }
    let s : State := { up base with fab := { (up base).fab with txq := [⟨f, some 3⟩] } }
    let o := setPort base 3 { PortSt.down with state := 2, credits := vcBuffers, owed := [1, 0, 0, 0] }
    stopped s = false ∧ s.fab.txq = [⟨f, some 3⟩] ∧ vcOf (fType f) = some 2 ∧ nextVc s 3 = some 2 ∧
    ((portAt o 3).state = 2 ∧ (portAt o 3).owed.any (· != 0) = true ∧ nextVc o 3 = none ∧ (portAt o 3).unacked.length < 65536) := by
  decide +kernel

theorem witness_FrameRefused :
    let f := arriving 9 2 { type := 1, dest := 9, op := 0 }
    frameOf (.collFrame 3 f) = some (3, f) ∧ portUp base 3 = false ∧ portUp (up base) 3 = true ∧ stopped base = false ∧
    frameCrc { f with trailer := 0 } ≠ tCrc { f with trailer := 0 } ∧
    (frameCrc f = tCrc f ∧ tLseq f ≠ (portAt (setPort base 3 { PortSt.down with state := 2, lastIn := 7 }) 3).lastIn + 1) ∧
    onLink (up base) 3 f = true ∧ fType f ≠ 0xF ∧ fDest f ≠ ownAddr (up base) := by decide +kernel

/-- A job with stage queue 0 to or from module 2. -/
def queued (consumes : Nat) : State :=
  let q : StageQueue := ⟨packRec 256 [(6, 6, 1), (7, 7, consumes), (23, 8, 2), (30, 24, 4), (63, 32, 8)], 0, 0, 0, [], []⟩
  up { job 2 with fab := { (job 2).fab with queues := [(0, q)] } }

theorem witness_CreditsReturned :
    let f := arriving 1 2 { type := 0xF, dest := 1, op := 0 }
    let c := arriving 1 2 { type := 2, dest := 1, op := 0xFFFFFFFE, offset := 1 }
    (onLink (up base) 3 f = true ∧ fType f = 0xF) ∧
    (reaches (queued 0) 3 c = true ∧ fType c = 2 ∧ fOp c = 0xFFFFFFFE ∧
      (∃ q, mapFind (queued 0).fab.queues (fTag c % 64) = some q ∧ sqValid q.record = true ∧ sqConsumes q.record = false ∧
        sqPeer q.record = fSrc c ∧ laterGen (BitVec.ofNat 32 (fOffset c)) q.received = true)) := by
  refine ⟨by decide +kernel, by decide +kernel, by decide +kernel, by decide +kernel, _, rfl, by decide +kernel⟩

/-- A step under way with two collectives of group 0: entry 0 a reduction that carries the vote, entry 1 a tag-only gather. -/
def voting : State :=
  let e := fun (d : List (Nat × Nat × Nat)) => packRec 2048 ([(3, 0, 2), (31, 16, 0xFFFF), (47, 32, 0xFFFF), (63, 48, 0xFFFF), (79, 64, 0xFFFF)] ++ d)
  let s := up (job 2)
  { s with job := { s.job with plans := [(0, ⟨[e [(148, 148, 1)], e [(131, 128, 1), (151, 151, 1)]], true, 0, 0, [], []⟩)] }
           step := { s.step with active := true, number := 4, phase := 0 } }

theorem witness_GroupFramesTaken :
    let c := arriving 1 2 { type := 1, dest := 1, gen := 1, op := 0, lines := [5] }
    let g := arriving 1 2 { type := 2, dest := 1, gen := 1, op := 1, tag := 9 }
    let v := arriving 1 2 { type := 2, dest := 1, gen := 1, op := 0, tag := 1, offset := 4 }
    let w := arriving 1 2 { type := 2, dest := 1, gen := 1, op := 0, tag := 1, offset := 3 }
    (reaches (up (job 2)) 3 c = true ∧ fType c = 1 ∧ fPhase c < 4 ∧ fromMember (up (job 2)) c = true ∧ enginesRun (up (job 2)) = false) ∧
    (reaches (up (job 2)) 3 g = true ∧ fType g = 2 ∧ fPhase g = 0 ∧ fOp g ≠ 0xFFFFFFFE ∧ collIs (up (job 2)) (fOpNum g) cVote = false ∧
      fromMember (up (job 2)) g = true) ∧
    (reaches voting 3 w = true ∧ collIs voting (fOpNum w) cTagonly = false ∧ fromMember voting w = true ∧
      fOffset w ≠ voting.ident.jobStep.toNat % 2 ^ 32) ∧
    (reaches voting 3 v = true ∧ fOffset v = voting.ident.jobStep.toNat % 2 ^ 32 ∧ mapFind voting.fab.votes (fSrc v) = none ∧
      voteResult { linked voting 3 v with fab := { (linked voting 3 v).fab with votes := mapSet voting.fab.votes (fSrc v) ((fTag v).testBit 0) } } = none) := by
  decide +kernel

theorem witness_GroupFramesTaken_vote :
    let v := arriving 1 2 { type := 2, dest := 1, gen := 1, op := 0, tag := 1, offset := 4 }
    let s : State := { voting with fab := { voting.fab with votes := [(1, true)] } }
    reaches s 3 v = true ∧ s.step.active = true ∧ s.step.phase = 0 ∧ (voteOp s).isSome = true ∧ statsWritten s = true ∧ s.fab.stale = [] ∧
    voteResult { linked s 3 v with fab := { (linked s 3 v).fab with votes := mapSet s.fab.votes (fSrc v) ((fTag v).testBit 0) } } = some true := by
  decide +kernel

theorem witness_GroupFramesTaken_queue :
    let d := arriving 1 2 { type := 0, dest := 1, op := 0, lines := [5, 6] }
    reaches (queued 1) 3 d = true ∧ fType d = 0 ∧ jobExists (queued 1) = true ∧
    (match mapFind (queued 1).fab.queues (fTag d % 64) with
     | some q => sqValid q.record && sqConsumes q.record && sqPeer q.record == fSrc d && decide (fOffset d + fLen d ≤ sqLines q.record) &&
         (sqSend q (fTag d / 64)).isSome
     | none => false) = true := by decide +kernel

theorem witness_BarrierFrames :
    let l := arriving 1 2 { type := 2, dest := 1, gen := 1, op := 0xFFFFFFFF, tag := 4, offset := 4 }
    let f := arriving 1 2 { type := 2, dest := 1, gen := 1, op := 0xFFFFFFFF, tag := 1, offset := 4 }
    let w : State := { job 2 with step := { (job 2).step with barrier := 1 }, fab := { (job 2).fab with ownBarrier := some (4, 0) } }
    (barrierGroup (up (job 2))).isSome = true ∧ reaches (up (job 2)) 3 l = true ∧ fType l = 2 ∧ fOp l = 0xFFFFFFFF ∧
    fGroup l = (up (job 2)).job.barrier ∧ (gGen grp).toNat = fGen l ∧ (memberIndex grp (fSrc l)).isSome = true ∧
    bitOf (BitVec.ofNat 32 (fTag l)) 2 = true ∧ mapFind (up (job 2)).fab.barrier (fSrc l) = none ∧ (up (job 2)).job.state = 2 ∧
    (reaches (up (job 2)) 3 f = true ∧ fTag f % 8 < 2 ∧ (up (job 2)).step.barrier = 0) ∧
    (waitsAtBarrier w = true ∧ stopped w = false ∧ (∀ a ∈ otherMembers grp, a ≠ ownAddr w)) := by decide +kernel

/-! ### Seal frames, timeouts -/

/-- The running job whose origin is module 2 as well: its image's generation is 3. -/
def buddied : State :=
  let s := up (job 2)
  { s with job := { s.job with sealDesc := setFld sealOf 31 16 2 }
           buddy := { BuddySt.none with owner := some 2, s := some 3, shadowGen := some 4, retained := some ([], []) } }

/-- A SEAL frame of module 2, not the last of its message. -/
def sealFrame (kind item tag offset : Nat) (ls : List Line) : Frame :=
  arriving 1 2 { type := 3, last := false, dest := 1, op := kind * 2 ^ 28 + item, tag := tag, offset := offset, lines := ls }

theorem witness_BuddyStores :
    let f := sealFrame 0 0 4 0 [5]
    let j := sealFrame 1 0 4 0 [5]
    let o := sealFrame 0 0 9 0 [5]
    (reaches buddied 3 f = true ∧ fType f = 3 ∧ fPhase f = 0 ∧ awaits buddied f = false ∧ fSrc f = originOf buddied ∧
      buddyAccepts buddied (BitVec.ofNat 32 (fTag f)) = true ∧ buddied.buddy.shadowGen = some (BitVec.ofNat 32 (fTag f)) ∧
      itemDone (addLines (findItem buddied.buddy.shadow 0 (fOpNum f)) f).1 = false) ∧
    (reaches buddied 3 j = true ∧ fPhase j = 1) ∧
    (reaches buddied 3 o = true ∧ awaits buddied o = false ∧ buddyAccepts buddied (BitVec.ofNat 32 (fTag o)) = false) := by
  decide +kernel

theorem witness_BuddyStores_marks :
    let m := sealFrame 3 0 4 7 []
    let c := sealFrame 6 0 3 0 []
    let d := sealFrame 7 0 2 0 []
    let r := sealFrame 10 0 9 0 []
    let asked : State := { buddied with job := { buddied.job with sealDesc := setFld buddied.job.sealDesc 15 0 7 } }
    (reaches buddied 3 m = true ∧ fPhase m = 3 ∧ fSrc m = originOf buddied ∧ buddyAccepts buddied (BitVec.ofNat 32 (fTag m)) = true ∧
      buddied.buddy.shadowGen = some (BitVec.ofNat 32 (fTag m)) ∧ (buddied.buddy.shadow.filter itemDone).length < fOffset m) ∧
    (reaches buddied 3 c = true ∧ fPhase c = 6 ∧ flippedIn buddied = some (BitVec.ofNat 32 (fTag c))) ∧
    (reaches buddied 3 d = true ∧ fPhase d = 7 ∧ (discardTo buddied.buddy (BitVec.ofNat 32 (fTag d))).isSome = true) ∧
    (reaches asked 3 r = true ∧ fPhase r = 10 ∧ fSrc r = originOf asked ∧ fSrc r ≠ buddyOf asked ∧ fSrc r ≠ ownAddr asked) := by
  decide +kernel

/-- The initial seal's generation 3 under way. -/
def shipping : State :=
  let s := up (job 1)
  { s with sealer := { SealSt.none with phase := 2, gen := 3, unacked := [(0, 1)] }, step := { s.step with barrier := 1 } }

/-- A pull of generation 3 under way. -/
def pulling : State := { up (job 4) with restore := some ⟨true, 0, 3, 0, none, [], 3, none⟩ }

theorem witness_OriginHears :
    let a := sealFrame 4 0 3 1 []
    let r := sealFrame 10 0 3 9 []
    let c := sealFrame 5 0 3 0 []
    let q := sealFrame 8 0 3 0 []
    let d := sealFrame 9 0 3 4 []
    (reaches shipping 3 a = true ∧ fPhase a = 4 ∧ fSrc a = buddyOf shipping ∧ shipping.sealer.gen.toNat = fTag a) ∧
    (reaches shipping 3 r = true ∧ fPhase r = 10 ∧ fSrc r = buddyOf shipping ∧ fSrc r ≠ originOf shipping) ∧
    (reaches shipping 3 c = true ∧ fPhase c = 5 ∧ shipping.sealer.phase = 2 ∧ shipping.step.barrier = 1 ∧ shipping.job.state = 1 ∧
      shipping.job.holdDue = false ∧ shipping.step.active = false) ∧
    (reaches pulling 3 d = true ∧ fPhase d = 9 ∧ fSrc d = buddyOf pulling ∧ fTag d = 3 ∧
      (pulling.sealer.incoming.filter itemDone).length < fOffset d) ∧
    (reaches buddied 3 q = true ∧ fPhase q = 8 ∧ fOpNum q = 0 ∧ buddied.buddy.serve ≠ some (fSrc q, BitVec.ofNat 32 (fTag q)) ∧
      (discardTo { buddied.buddy with serve := some (2, 3) } (BitVec.ofNat 32 (fTag q))).isSome = true) := by decide +kernel

theorem witness_TimeoutsExpire :
    let n : State := { base with fab := { base.fab with noRoute := [(9, (5, none))] } }
    let w : State := { job 2 with step := { (job 2).step with barrier := 1 } }
    let h : State := { job 2 with evq := { (job 2).evq with log2n := 8, tail := 256, fullSince := some 5 } }
    (stopped n = false ∧ mapFind n.fab.noRoute (9 : BitVec 16).toNat = some (5, none) ∧ n.clk.running = true) ∧
    (jobExists w = true ∧ lostDeclared w 2 = false ∧ 2 ∈ awaitedPeers w ∧ w.job.state = 2 ∧ w.restore = none) ∧
    (h.evq.fullSince = some 5 ∧ evqFull h.evq = true ∧ h.job.state = 2 ∧ h.step.active = false ∧ h.clk.running = true) := by
  decide +kernel

/-! ### Looms and output -/

/-- A loom operation on one element: bfloat16 stationary and streaming operands and output, K = M = N = 1, on loom 0. -/
def loomEntry : Entry := packRec 2048 [(31, 16, 0xFFFF), (47, 32, 0xFFFF), (63, 48, 0xFFFF), (79, 64, 0xFFFF), (135, 132, 12), (139, 136, 12),
  (143, 140, 12), (191, 160, 1), (223, 192, 1), (255, 224, 1), (530, 521, 1)]

/-- The same with a step under way whose loom operation 0 and vector operation 1 have started. -/
def working : State :=
  let s := job 2
  { s with job := { s.job with plans := [(0, ⟨[loomEntry, vecEntry], true, 0, 0, [], []⟩)] }
           step := { s.step with active := true, number := 5, ops := [(0, 1), (1, 1)] }
           eng := { EngSt.none with ops := [(0, ⟨loomEntry, 0x3F80, 0x3F80, 0x3F80, [], 0, [], 0⟩)], order := [0, 1] } }

/-- The operation's only unit and its load, n wavefronts in. -/
def unit0 : UnitId := ⟨0, 0, 0, 0⟩
def load0 (n : Nat) : LoadSt := ⟨unit0, 0, 0, 0, n⟩

/-- Loom 0 with a shadow and an active load. -/
def looming (shadow active : Option LoadSt) : State := setLoom working 0 { LoomSt.idle with shadow := shadow, active := active }

/-- The active load with the streamed element 1.0 and the stationary element 1.0 delivered. -/
def fed : State :=
  let r : Run := Run.start 0 (some unit0) [] 0 [(0, 1)]
  setCarter (looming none (some (load0 16))) 0 { CarterSt.idle with
    runs := [(0, [{ r with got := [(0, elemOf 0x3F80)] }]), (1, [{ r with got := [(0, elemOf 0x3F80)] }])] }

theorem witness_LoomsWork_take :
    let s : State := setSubq working 0 [unit0]
    enginesRun s = true ∧ paused s = false ∧ (loomAt s 0).shadow = none ∧ loomOn s 0 = true ∧ nextUnit s 0 = some (unit0, 0, 0) := by
  decide +kernel

theorem witness_LoomsWork_load :
    enginesRun (looming (some (load0 1)) none) = true ∧ (loomAt (looming (some (load0 1)) none) 0).shadow = some (load0 1) ∧
    wavefrontReady (looming (some (load0 1)) none) 0 (load0 1) 1 = true ∧
    (let s := looming (some (load0 16)) none
     let t := setLoom s 0 { loomAt s 0 with active := some (load0 16), cells := [], loadWait := false,
                                            shadow := followingLoad (unitEntry s unit0) (load0 16) }
     (loomAt s 0).shadow = some (load0 16) ∧ (loomAt s 0).active = none ∧ streamed t 0 (load0 16) = false) := by decide +kernel

theorem witness_LoomsWork_cell :
    enginesRun fed = true ∧ (loomAt fed 0).active = some (load0 16) ∧ cellPlace fed 0 (load0 16) 0 0 = (0, 0) ∧
    colActive fed unit0 0 = true ∧ rowActive (unitEntry fed unit0) 0 0 0 = true ∧ 0 < unitVecs fed unit0 ∧
    vectorHere fed 0 (load0 16) 0 = true ∧ (opLmode (unitEntry fed unit0) = true → aboveDone fed 0 (load0 16) 0 0 0 = true) ∧
    skewOk fed 0 (load0 16) 0 = true := by decide +kernel

/-- Loom 0 with the unit's finished partials, its tile open and awaiting unit n. -/
def handing (n : Nat) : State :=
  setTile (setLoom working 0 { LoomSt.idle with out := some (unit0, []) }) (tileKey unit0) { TileSt.opened 0 with next := n }

theorem witness_LoomsWork_partial :
    enginesRun (handing 0) = true ∧ (loomAt (handing 0) 0).out = some (unit0, []) ∧ (loomAt (handing 0) 0).active = none ∧
    tileOf (handing 0) unit0 = some { TileSt.opened 0 with next := 0 } ∧ unitOrd (handing 0) unit0 = 0 ∧
    tileOf (handing 1) unit0 = some { TileSt.opened 0 with next := 1 } ∧ unitOrd (handing 1) unit0 < 1 := by decide +kernel

theorem witness_LoomsWork_reclaim :
    let k : TakenUnit := ⟨unit0, 9, 1, 0⟩
    let s := setTile { working with eng := { working.eng with taken := [k] } } (tileKey unit0) (TileSt.opened 0)
    enginesRun s = true ∧ (loomAt s 0).shadow = none ∧ (loomAt s 0).active = none ∧ loomOn s 0 = true ∧
    reclaimable s 0 = some (k, TileSt.opened 0) ∧ s.clk.running = true := by decide +kernel

theorem witness_ElementsWritten :
    outputWork (handing 1) 0 = some (0, 0) ∧ tileOf (handing 1) ⟨0, 0, 0, 0⟩ = some { TileSt.opened 0 with next := 1 } ∧
    elementHere (handing 1) 0 0 0 = true ∧ tileCols (stepOp (handing 1) 0) 0 * tileVecsOf (stepOp (handing 1) 0) 0 ≤ 0 + 1 ∧
    laneWork working 0 0 = some (1, vecEntry) ∧ vecWaits working 1 0 0 vecEntry = false := by decide +kernel

/-- The same operation with two streamed vectors, its tile finished. -/
def handing2 : State :=
  let e := setFld loomEntry 255 224 2
  setTile { working with
    job := { working.job with plans := [(0, ⟨[e, vecEntry], true, 0, 0, [], []⟩)] }
    eng := { working.eng with ops := [(0, ⟨e, 0x3F80, 0x3F80, 0x3F80, [], 0, [], 0⟩)] } } (tileKey unit0) { TileSt.opened 0 with next := 1 }

theorem witness_ElementsWritten_more :
    enginesRun handing2 = true ∧ outputWork handing2 0 = some (0, 0) ∧ elementHere handing2 0 0 0 = true ∧
    0 + 1 < tileCols (stepOp handing2 0) 0 * tileVecsOf (stepOp handing2 0) 0 := by decide +kernel

/-! ### Streams -/

/-- An image of one EMIT of one element and END: class, fill and drain buffers, source buffer bit, destination code. -/
def imageOf (cls fill drain src dst : Nat) : List Byte :=
  [2, BitVec.ofNat 8 cls] ++ bytesOfNat 2 fill ++ [0xFF, 0xFF] ++ bytesOfNat 2 drain ++ zeros 24 ++
    bytesOfNat 8 (7 + 2 ^ 12 * src + 2 ^ 18 * dst + 2 ^ 32) ++ zeros 8

/-- Carter 0 with one run in a slot. -/
def streaming (slot : Nat) (r : Run) (xs : List Xfer) : State := setCarter working 0 { CarterSt.idle with runs := [(slot, [r])], xfers := xs }

/-- A bias stream of two bfloat16 elements at address 0, and one that takes an element of buffer 0. -/
def biasRun : Run := { Run.start 0 (some (biasUnit 0)) [] 0 [(0, 2)] with direct := some (0, 12) }
def drainRun : Run := { Run.start 0 (some unit0) (imageOf 0 0xFFFF 0 1 0) 0 [(0, 1)] with wait := some (0, false, 0) }

/-- A transfer of a run's first element. -/
def transfer (write : Bool) (seq : Nat) : Xfer := ⟨3, 0, some (biasUnit 0), write, 0, 1, none, 0, 2, seq⟩

theorem witness_StreamsMove_issue :
    let s := streaming 3 biasRun []
    enginesRun s = true ∧ outstanding (carterAt s 0) < 8 ∧ currentRun s 0 3 = some biasRun ∧ biasRun.wait = none ∧ runClass biasRun < 2 ∧
    biasRun.rd < runLen biasRun ∧ (gatherOf biasRun 0 = none ∧ gatherOf biasRun 1 = none) ∧ readPlace biasRun 0 = .memory 0 16 0 ∧
    8 ≤ outstanding (carterAt (streaming 3 biasRun (List.replicate 8 (transfer false 0))) 0) := by decide +kernel

theorem witness_StreamsMove_complete :
    let s := streaming 3 biasRun [transfer true 0]
    ((carterAt s 0).xfers.filter fun k => k.data.isNone)[0]? = some (transfer true 0) ∧ lineBusy s 0 2 0 = false := by decide +kernel

theorem witness_StreamsMove_resume :
    let s := setBuf (streaming 0 drainRun []) 0 ⟨[elemOf 0x3F80], [], false⟩
    currentRun s 0 0 = some drainRun ∧ drainRun.wait = some (0, false, 0) ∧ runClass drainRun < 2 ∧ 0 = wDrain0 drainRun.img ∧
    drainRun.rd < runLen drainRun ∧ gatherOf drainRun (posAt drainRun.ranges drainRun.rd) = none ∧
    readPlace drainRun drainRun.rd = .buffer ∧ drainRun.given = drainRun.rd ∧ (bufAt s 0).elems = [elemOf 0x3F80] := by decide +kernel

/-- Two class 3 runs in a circle: each waits for room in the buffer that the other would drain. -/
def circle : State :=
  let a : Run := { Run.start 0 none (imageOf 3 0 1 1 1) 0 [(0, 1)] with wait := some (0, true, 0) }
  let b : Run := { Run.start 0 none (imageOf 3 1 0 1 1) 0 [(0, 1)] with wait := some (1, true, 0) }
  setCarter (setCarter working 0 { CarterSt.idle with runs := [(3, [a])] }) 6 { CarterSt.idle with runs := [(3, [b])] }

theorem witness_StreamsMove_circle :
    (circularSet (liveRuns circle) 64 (waitingRuns circle)).length = 2 ∧
    ((circularSet (liveRuns circle) 64 (waitingRuns circle)).all fun r => decide (r.2.2.wait.isSome = true)) = true ∧
    (bufAt circle 0).spilled = false ∧ circle.job.spillPages < spillUsed circle + 1 ∧ circle.job.state = 2 ∧
    ({ circle with job := { circle.job with spillPages := 4 } } : State).job.spillPages = 4 ∧ spillUsed circle + 1 ≤ 4 := by decide +kernel

/-- LPDDR6 page 0 mapped and write-protected, with a write to it outstanding. -/
def protectedPage : State :=
  match entryAddr 0 with
  | some ea => writeEntry (streaming 3 biasRun [transfer true 0]) ea (pmEntry true 1 false 0 0 0)
  | none => working

theorem witness_StreamsMove_copy :
    stopped protectedPage = false ∧ writeWaits protectedPage 0 = true ∧
    (match pageEntry 0 with | some ea => (lookupEntry protectedPage ea).1 == protectedPage && pmWp (lookupEntry protectedPage ea).2 | none => false) = true ∧
    stagingRoom protectedPage 1 = true ∧
    stagingRoom { protectedPage with job := { protectedPage.job with sealDesc := 0 } } 1 = false := by decide +kernel

/-! ### Steps, mills, boundary, memory, power -/

theorem witness_IdleStepTicks : base.pending = [] ∧ base.clk.running = true ∧
    ({ base with clk := { base.clk with running := false } } : State).clk.running = false := by decide +kernel

theorem witness_MemoryFormKept : Memory.wf base = true ∧ ∃ t, step base = .next t := ⟨by decide +kernel, _, rfl⟩

theorem witness_FusesOneWay : ∃ t, step { base with fuses := { base.fuses with keyDestroyed := true } } = .next t := ⟨_, rfl⟩

/-- A running job of the plan above with the next step dispatched, with an update descriptor of another step. -/
def dispatched : State := { planned with job := { planned.job with dispatches := [⟨0, 5, 77, [packRec 512 [(95, 48, 9)]]⟩] } }

theorem witness_StepAndOperationBegin :
    stopped dispatched = false ∧ dispatched.job.state = 2 ∧ dispatched.step.active = false ∧ dispatched.step.barrier = 0 ∧
    dispatched.job.dispatches = [⟨0, 5, 77, [packRec 512 [(95, 48, 9)]]⟩] ∧ udStep (packRec 512 [(95, 48, 9)]) ≠ (5 : BitVec 48).toNat := by
  decide +kernel

theorem witness_StepAndOperationBegin_op :
    opReady { planned with step := { planned.step with active := true, number := 5 } } 0 = true := by decide +kernel

/-- A step under way whose only operation, a collective of group 0, has started: a broadcast, or a send on stage queue 0. -/
def sending (coll : Nat) (stage : Option Nat) (begun : Nat) : State :=
  let e : Entry := packRec 2048 [(3, 0, 2), (31, 16, 0xFFFF), (47, 32, 0xFFFF), (63, 48, 0xFFFF), (79, 64, 0xFFFF), (131, 128, coll), (199, 168, 16)]
  let q : StageQueue := ⟨packRec 256 [(6, 6, 1), (23, 8, 2), (30, 24, 4), (63, 32, 8)], begun, 0, 0, [], []⟩
  let s := job 2
  { s with job := { s.job with plans := [(0, ⟨[e], true, 0, 0, [], []⟩)] }
           fab := { s.fab with queues := [(0, q)] }
           step := { s.step with active := true, number := 5, ops := [(0, 1)] }
           eng := { EngSt.none with colls := match stage with | some k => [(0, ⟨k, 0⟩)] | none => [] } }

theorem witness_CollectivesRun :
    enginesRun (sending 0 none 0) = true ∧ eKind (stepOp (sending 0 none 0) 0) = 2 ∧ mapGet (sending 0 none 0).step.ops 0 0 = 1 ∧
    collStage (sending 0 none 0) 0 = 0 ∧ cColl (eColl (stepOp (sending 0 none 0) 0)) < 5 ∧
    cColl (eColl (stepOp (sending 5 none 0) 0)) = 5 ∧ cQueue (eColl (stepOp (sending 5 none 0) 0)) = 0 ∧
    ((sending 5 none 0).fab.queues.all fun q => sqCredit q.2) = true ∧ ((sending 5 none 4).fab.queues.all fun q => !sqCredit q.2) = true ∧
    collStage (sending 5 (some 1) 0) 0 = 1 ∧ collStage (sending 5 (some 1) 4) 0 = 1 ∧
    (mapFind (sending 0 (some 4) 0).eng.colls 0).isSome = true ∧ (∀ x ∈ (sending 0 (some 4) 0).eng.colls, x.2.stage = 4) := by
  decide +kernel

/-- A mill phase under way with one update descriptor, in a step whose number is n. -/
def milling (kind n : Nat) : State :=
  let s := rich 2
  let d : BitVec 512 := packRec 512 [(31, 0, 5), (33, 32, kind), (95, 48, n), (127, 96, 1), (159, 128, 32), (191, 160, 1)]
  { s with step := { s.step with active := true, phase := 1, number := BitVec.ofNat 48 n, upd := if kind = 2 then [] else [d] }
           job := { s.job with shapes := [(5, d)] } }

theorem witness_MillsWork :
    (milling 0 5).step.phase = 1 ∧ stopped (milling 0 5) = false ∧ millWork (milling 0 5) 0 = .prologue 0 ∧
    millWork (milling 1 5) 0 = .record 0 0 0 ∧ millWork (milling 2 32768) 0 = .sweep 5 0 := by decide +kernel

/-- A step in a phase. -/
def inPhase (k : Nat) : State := { job 2 with step := { (job 2).step with active := true, phase := k, number := 5 } }

theorem witness_BoundaryAndSeal :
    let s := inPhase 2
    let u := advanceMerges (beginMerges (trace (noteSampleWait { s with assay := { s.assay with dueCount := s.job.due.length } }) 2 2
      s.step.plan (genOf s s.step.number.toNat).toNat 0))
    (s.step.active = true ∧ stopped s = false ∧ s.step.phase = 2 ∧ s.fab.stale = [] ∧ s.step.abandoned = false ∧ s.step.invalid = false ∧
      allOpsDone s = true ∧ mergesBegun s = false ∧ mergesDone u = true ∧ disagreements u = []) ∧
    ({ s with step := { s.step with abandoned := true } } : State).step.abandoned = true ∧
    ((inPhase 3).step.phase = 3 ∧ (inPhase 3).sealer.phase = 0 ∧ (inPhase 3).sealer.dirtyPages = [] ∧ (inPhase 3).sealer.dirtyRows = []) := by
  decide +kernel

/-- Memory with one byte at the first word of channel 5. -/
def damaged (v : Byte) : State := { base with mem := { base.mem with data := cellsPut [] (5 * 2 ^ 34) [v] } }

theorem witness_ScrubbingMends :
    scrubUnit base (.lpddr 5) = (5, 5 * 2 ^ 34, (scrubUnit base (.lpddr 5)).2.2) ∧ stopped base = false ∧ base.mem.wiping = false ∧
    (readWord (rawData base (5 * 2 ^ 34)) (rawMeta base (5 * 2 ^ 34))).cls = .clean ∧
    (readWord (rawData (damaged 1) (5 * 2 ^ 34)) (rawMeta (damaged 1) (5 * 2 ^ 34))).cls = .corrected ∧
    (readWord (rawData (damaged 3) (5 * 2 ^ 34)) (rawMeta (damaged 3) (5 * 2 ^ 34))).cls = .uncorrectable ∧
    (readWord 0 (writeMeta 0 0 true)).cls = .poisoned := by decide +kernel

theorem witness_PowerFollows :
    foremanUp base = true ∧ stopped base = false ∧ base.pins.vauxUp = true ∧
    gateAt (setGate base 4 9 2) 4 9 = 2 ∧ gateAt (setGate base 4 9 3) 4 9 = 3 := by decide +kernel

theorem witness_ThermalLimitActs :
    base.pins.vauxUp = true ∧ base.pins.railsOn = true ∧ (List.replicate 144 (1600 : BitVec 16)).length = 144 ∧
    1600 ≤ (List.replicate 144 (1600 : BitVec 16)).foldl (fun m x => max m x.toNat) 0 ∧
    (List.replicate 144 (1599 : BitVec 16)).foldl (fun m x => max m x.toNat) 0 < 1600 ∧ base.pow.hotSince = none ∧ foremanUp base = true ∧
    base.clk.running = true ∧ ({ base with pow := { base.pow with hotSince := some 5 } } : State).pow.hotSince = some 5 ∧
    ({ base with pow := { base.pow with throttle := true, coolSince := some 5 } } : State).pow.coolSince = some 5 := by decide +kernel

/-- The module in Manufacture. -/
def made : State := { base with fuses := { base.fuses with lcLog := [(1, true)] } }

theorem witness_ScanLoads :
    lifecycleOf made.fuses = 1 ∧ stopped made = false ∧ scanHolds .extest = true ∧ made.job.state = 0 ∧
    (let held : State := { made with pins := { made.pins with tap := .clamp } }; scanHolds held.pins.tap = true ∧ lifecycleOf held.fuses = 1) := by
  decide +kernel

theorem witness_FloatEightCodes :
    (decode .f8a false 127).cls = .nan ∧ (decode .f8a false 0xB8).neg = true ∧ (decode .f8b false 0x7C).cls = .posInf ∧
    (decode .f8b false 0xFD).cls = .nan := by decide +kernel

theorem witness_PageEntryPlaces :
    (0x200000 + 5) / 2 ^ 21 = 1 ∧ entryAddr (0x200000 + 5) = some (storeOf 1 + 0x400000) ∧
    (entryAddr (scratchBase + 127 * 0x400000)).isSome = true ∧ (entryAddr (storeOf 15 + 0x1FFFFFF)).isSome = true := by decide +kernel

end Sys2Proof.Tests
end

section
/-! O48: a step begins, and an operation starts. The proof rests on frames: what the memory operations, the beginning of the mill
phase, and the start and end of an operation leave as it was. -/

namespace Sys2Proof.Machine

/-- A fold keeps what each of its steps keeps. -/
theorem foldl_keeps {σ β γ : Type} (view : σ → γ) (f : σ → β → σ) (h : ∀ s b, view (f s b) = view s) (l : List β) (s : σ) :
    view (l.foldl f s) = view s := by
  induction l generalizing s with
  | nil => rfl
  | cons b l ih => exact (ih (f s b)).trans (h s b)

/-- States that agree behind a mask agree in whatever the mask leaves as it is. -/
theorem view_of_mask {γ : Type} {mask : State → State} {s t : State} (h : mask s = mask t) (view : State → γ)
    (hview : ∀ x, view (mask x) = view x) : view s = view t := by
  rw [← hview s, h, hview t]

/-! ### What reads and writes of the memories leave alone -/

/-- t as it is behind its memories: the host interface, the memories and the sealer taken from s. -/
def behindMemory (s t : State) : State := { behindHost s t with mem := s.mem, sealer := s.sealer }

theorem behindMemory_of_behindHost {r s t : State} (h : behindHost r s = behindHost r t) :
    behindMemory r s = behindMemory r t := view_of_mask h (behindMemory r) fun _ => rfl

theorem behindMemory_withMem (r s : State) (m : MemSt) : behindMemory r { s with mem := m } = behindMemory r s := rfl

theorem behindMemory_withSealer (r s : State) (x : SealSt) : behindMemory r { s with sealer := x } = behindMemory r s := rfl

@[simp] theorem behindMemory_putWord (r s : State) (p data md : Nat) : behindMemory r (putWord s p data md) = behindMemory r s :=
  behindMemory_withMem r s _

@[simp] theorem behindMemory_writeWord (r s : State) (p data tag : Nat) (poison : Bool) :
    behindMemory r (writeWord s p data tag poison) = behindMemory r s := behindMemory_putWord r s p data _

@[simp] theorem behindMemory_bump (r s : State) (n : Nat) : behindMemory r (bump s n) = behindMemory r s :=
  behindMemory_of_behindHost (behindHost_bump r s n)

@[simp] theorem behindMemory_hostPut (r s : State) (a : Nat) (bs : List Byte) :
    behindMemory r (hostPut s a bs) = behindMemory r s := behindMemory_of_behindHost (behindHost_hostPut r s a bs)

@[simp] theorem behindMemory_trace (r s : State) (a b c d e : Nat) : behindMemory r (trace s a b c d e) = behindMemory r s :=
  behindMemory_of_behindHost (behindHost_trace r s a b c d e)

@[simp] theorem behindMemory_raise (r s : State) (e : EventArgs) (h : e.nmi = false) :
    behindMemory r (raise s e) = behindMemory r s :=
  behindMemory_of_behindHost (behindHost_raise r s e h)

theorem behindMemory_raiseUnc (r s : State) (key index loc : Nat) :
    behindMemory r (raiseUnc s key index loc) = behindMemory r s := by
  unfold raiseUnc; split
  · rfl
  · exact (behindMemory_raise r _ _ rfl).trans (behindMemory_withMem r s _)

theorem behindMemory_raiseCe (r s : State) (key : Nat) : behindMemory r (raiseCe s key) = behindMemory r s := by
  unfold raiseCe; dsimp only; split
  · exact (behindMemory_raise r _ _ rfl).trans (behindMemory_withMem r s _)
  · exact behindMemory_withMem r s _

/-- A memory error record changes the memories' log and the host interface only (R251, R252). -/
@[simp] theorem behindMemory_logMem (r s : State) (p found : Nat) (unc : Bool) (x : WordRead) :
    behindMemory r (logMem s p found unc x) = behindMemory r s := by
  unfold logMem; dsimp only
  generalize hm : ({ s with mem := _ } : State) = s1
  have h1 : behindMemory r s1 = behindMemory r s := hm ▸ behindMemory_withMem r s _
  split <;> split <;> simp [behindMemory_raiseUnc, behindMemory_raiseCe, h1]

@[simp] theorem behindMemory_readMem (r s : State) (p found : Nat) : behindMemory r (readMem s p found).1 = behindMemory r s := by
  unfold readMem; dsimp only; split <;> simp

@[simp] theorem behindMemory_lookupEntry (r s : State) (ea : Nat) : behindMemory r (lookupEntry s ea).1 = behindMemory r s := by
  unfold lookupEntry; dsimp only; split
  case h_4 =>
    split
    · rfl
    · exact (behindMemory_logMem r _ _ _ _ _).trans (behindMemory_withMem r s _)
  all_goals simp

theorem behindMemory_translate (r s : State) (a : Nat) : behindMemory r (translate s a).1 = behindMemory r s := by
  unfold translate; split
  · rfl
  · exact behindMemory_lookupEntry r s _

@[simp] theorem behindMemory_writeEntry (r s : State) (ea e : Nat) : behindMemory r (writeEntry s ea e) = behindMemory r s := by
  unfold writeEntry writeEntryAs; dsimp only
  exact (behindMemory_writeWord r _ _ _ _ _).trans ((behindMemory_withMem r _ _).trans (behindMemory_lookupEntry r s ea))

theorem behindMemory_readFrame (r s : State) (h f : Nat) : behindMemory r (readFrame s h f).1 = behindMemory r s :=
  foldl_keeps (fun acc : State × List Nat => behindMemory r acc.1) _ (fun acc p => behindMemory_readMem r acc.1 p 0) _ (s, [])

theorem behindMemory_leaveUncopied (r s : State) (v gen : Nat) :
    behindMemory r (leaveUncopied s v gen) = behindMemory r s := by
  unfold leaveUncopied; dsimp only
  generalize hm : ({ s with sealer := _ } : State) = s1
  have h1 : behindMemory r s1 = behindMemory r s := hm ▸ behindMemory_withSealer r s _
  split
  · exact (behindMemory_trace r s1 _ _ _ _ _).trans h1
  · exact (behindMemory_raise r _ _ rfl).trans ((behindMemory_withSealer r _ _).trans ((behindMemory_trace r s1 _ _ _ _ _).trans h1))

/-- The copy of a protected page changes the memories, the staging area and the host interface only (R363, R365). -/
theorem behindMemory_copyEntry (r s : State) (v ea e : Nat) : behindMemory r (copyEntry s v ea e) = behindMemory r s := by
  unfold copyEntry; split
  · rfl
  · refine (behindMemory_writeEntry r _ _ _).trans ?_
    split
    · have hread := behindMemory_readFrame r s (pmHome e) (pmFrame e)
      rcases hr : readFrame s (pmHome e) (pmFrame e) with ⟨s1, bad⟩
      rw [hr] at hread
      exact (behindMemory_trace r _ _ _ _ _ _).trans ((behindMemory_withSealer r s1 _).trans hread)
    · exact behindMemory_leaveUncopied r s v _

/-- The copy of page v does nothing, or copies by the entry that a lookup delivers. The definition is unfolded as a function and not
at v: the kernel, given v, would compute the place of the entry in unary. -/
theorem copyPage_cases (s : State) (v : Nat) :
    copyPage s v = s ∨ ∃ ea s1 e, lookupEntry s ea = (s1, e) ∧ copyPage s v = copyEntry s1 v ea e := by
  suffices unfolded : ∀ f : State → Nat → State, f = copyPage →
      f s v = s ∨ ∃ ea s1 e, lookupEntry s ea = (s1, e) ∧ f s v = copyEntry s1 v ea e from unfolded copyPage rfl
  intro f hf
  delta copyPage at hf
  have hv := congrFun (congrFun hf s) v
  generalize pageEntry v = place at hv
  cases place with
  | none => exact .inl hv
  | some ea =>
    rcases hlook : lookupEntry s ea with ⟨s1, e⟩
    dsimp only at hv
    rw [hlook] at hv
    exact .inr ⟨ea, s1, e, hlook, hv⟩

theorem behindMemory_copyPage (r s : State) (v : Nat) : behindMemory r (copyPage s v) = behindMemory r s := by
  rcases copyPage_cases s v with h | ⟨ea, s1, e, hlook, h⟩
  · rw [h]
  · have hl := behindMemory_lookupEntry r s ea
    rw [hlook] at hl
    rw [h]
    exact (behindMemory_copyEntry r s1 v ea e).trans hl

theorem behindMemory_markDirty (r s : State) (v : Nat) : behindMemory r (markDirty s v) = behindMemory r s := by
  unfold markDirty; split
  · rfl
  · exact behindMemory_withSealer r s _

theorem behindMemory_beforeWrite (r s : State) (a e : Nat) : behindMemory r (beforeWrite s a e) = behindMemory r s := by
  unfold beforeWrite; split
  · refine (behindMemory_markDirty r _ _).trans ?_
    split
    · exact behindMemory_copyPage r s _
    · rfl
  · rfl

theorem behindMemory_mergeMem (r s : State) (p off : Nat) (bs : List Byte) (tag : Nat) (poison : Bool) :
    behindMemory r (mergeMem s p off bs tag poison) = behindMemory r s := by
  unfold mergeMem; split
  · exact behindMemory_writeWord r s _ _ _ _
  · have hread := behindMemory_readMem r s p 2
    rcases hr : readMem s p 2 with ⟨s1, x⟩
    rw [hr] at hread
    exact (behindMemory_writeWord r s1 _ _ _ _).trans hread

theorem behindMemory_storeWord (r s : State) (a : Nat) (bs : List Byte) (tag : Nat) (poison : Bool) :
    behindMemory r (storeWord s a bs tag poison).1 = behindMemory r s := by
  unfold storeWord; split
  · split
    · exact behindMemory_hostPut r s _ _
    · rfl
  · have htrans := behindMemory_translate r s a
    rcases ht : translate s a with ⟨s1, _ | ⟨_, e, p⟩⟩ <;> rw [ht] at htrans
    · exact htrans
    · exact (behindMemory_mergeMem r _ _ _ _ _ _).trans ((behindMemory_beforeWrite r s1 a e).trans htrans)

/-- A store changes the memories, the dirty set with the staging area, and the host interface only. -/
theorem behindMemory_storeWords (r s : State) (fuel a : Nat) (bs : List Byte) (tag : Nat) (poison : Bool) :
    behindMemory r (storeWords fuel s a bs tag poison).1 = behindMemory r s := by
  induction fuel generalizing s a bs with
  | zero => rfl
  | succ fuel ih =>
    unfold storeWords; split
    · rfl
    · exact (ih _ _ _).trans (behindMemory_storeWord r s a _ tag poison)

/-! ### What the mills' work on the job leaves alone -/

/-- t behind its host interface, with the job's tensors taken from s. -/
def behindTensors (s t : State) : State := { behindHost s t with job := { t.job with tensors := s.job.tensors } }

theorem behindTensors_of_behindHost {r s t : State} (h : behindHost r s = behindHost r t) :
    behindTensors r s = behindTensors r t := view_of_mask h (behindTensors r) fun _ => rfl

theorem behindTensors_withTensors (r s : State) (ts : List (Nat × Tensor)) :
    behindTensors r { s with job := { s.job with tensors := ts } } = behindTensors r s := rfl

theorem behindTensors_setTensor (r s : State) (h : Nat) (t : Tensor) : behindTensors r (setTensor s h t) = behindTensors r s :=
  behindTensors_withTensors r s _

theorem behindTensors_countFrozen (r s : State) : behindTensors r (countFrozen s) = behindTensors r s := by
  unfold countFrozen
  refine foldl_keeps (behindTensors r) _ (fun s d => ?_) _ s
  split
  · split
    · exact behindTensors_setTensor r s _ _
    · rfl
  · rfl

theorem behindTensors_countUpdates (r s : State) : behindTensors r (countUpdates s) = behindTensors r s := by
  unfold countUpdates
  refine foldl_keeps (behindTensors r) _ (fun s d => ?_) _ s
  split
  · split
    · rfl
    · exact behindTensors_setTensor r s _ _
  · rfl

theorem behindTensors_beginCalibration (r s : State) (h : Nat) : behindTensors r (beginCalibration s h) = behindTensors r s := by
  unfold beginCalibration; split
  · split
    · exact behindTensors_setTensor r s _ _
    · rfl
  · rfl

/-- The tensors that enter calibration, and the event for them, change nothing else behind the host interface (R162, R164). -/
theorem behindTensors_startCalibrations (r s : State) : behindTensors r (startCalibrations s) = behindTensors r s := by
  have hfold := foldl_keeps (behindTensors r) _ (behindTensors_beginCalibration r) (calibrationStarts s) s
  unfold startCalibrations; dsimp only; split
  · exact hfold
  · exact (behindTensors_of_behindHost (behindHost_raise r _ _ rfl)).trans hfold

/-- t behind its memories, with what a mill phase's beginning may change of the job taken from s: tensors, shapes, the arrays kept of
shards, draw counters and the update state. -/
def behindShapes (s t : State) : State :=
  { behindMemory s t with
    job := { t.job with tensors := s.job.tensors, shapes := s.job.shapes, sealedStats := s.job.sealedStats,
                        firstStats := s.job.firstStats, draws := s.job.draws, update := s.job.update } }

theorem behindShapes_of_behindTensors {r s t : State} (h : behindTensors r s = behindTensors r t) :
    behindShapes r s = behindShapes r t := view_of_mask h (behindShapes r) fun _ => rfl

theorem behindShapes_of_behindMemory {r s t : State} (h : behindMemory r s = behindMemory r t) :
    behindShapes r s = behindShapes r t := view_of_mask h (behindShapes r) fun _ => rfl

theorem behindShapes_withShapes (r s : State) (m : List (Nat × BitVec 512)) :
    behindShapes r { s with job := { s.job with shapes := m } } = behindShapes r s := rfl

theorem behindShapes_withStats (r s : State) (m n : List (Nat × List Byte)) :
    behindShapes r { s with job := { s.job with sealedStats := m, firstStats := n } } = behindShapes r s := rfl

theorem behindShapes_withDraws (r s : State) (m : List (Nat × BitVec 64)) :
    behindShapes r { s with job := { s.job with draws := m } } = behindShapes r s := rfl

theorem behindShapes_withUpdate (r s : State) (u : BitVec 128) (st : StepSt) :
    behindShapes r { s with job := { s.job with update := u }, step := st } = behindShapes r { s with step := st } := rfl

theorem behindShapes_putStatArrays (r s : State) (d : BitVec 512) (bs : List Byte) (tag : Nat) :
    behindShapes r (putStatArrays s d bs tag) = behindShapes r s := by
  unfold putStatArrays
  exact behindShapes_of_behindMemory
    ((behindMemory_storeWords r _ _ _ _ _ _).trans (behindMemory_storeWords r s _ _ _ _ _))

/-- A newly met shard changes the memories and the kept arrays only (R286, R380). -/
theorem behindShapes_meetShard (r s : State) (d : BitVec 512) : behindShapes r (meetShard s d) = behindShapes r s := by
  unfold meetShard; dsimp only; split
  · rfl
  · refine (behindShapes_withStats r _ _ _).trans ?_
    split
    · exact behindShapes_putStatArrays r s d _ _
    · rfl

theorem behindShapes_rememberShapes (r s : State) : behindShapes r (rememberShapes s) = behindShapes r s := by
  unfold rememberShapes
  refine foldl_keeps (behindShapes r) _ (fun s d => ?_) _ s
  split
  · exact (behindShapes_withShapes r _ _).trans (behindShapes_meetShard r s d)
  · rfl

theorem behindShapes_skipMills (r s : State) : behindShapes r (skipMills s) = behindShapes r s := by
  unfold skipMills
  exact foldl_keeps (behindShapes r) _ (fun s _ => behindShapes_withDraws r s _) _ s

/-! ### The mill phase begins -/

/-- The step once its mill phase has begun with the vote's result, now in phase p. -/
def inMillPhase (st : StepSt) (vote : Bool) (p : Nat) : StepSt :=
  { st with phase := p, vote := some vote, mills := [], prologues := [], badShards := [], rows := [], skipped := st.skipped || !vote }

theorem behindShapes_withStep {r s t : State} (h : behindShapes r s = behindShapes r t) (st : StepSt) :
    behindShapes r { s with step := st } = behindShapes r { t with step := st } :=
  congrArg (fun x : State => { x with step := st }) h

/-- A mill phase that ends brings phase 2, and otherwise touches the tensors only (R267, R275). -/
theorem behindShapes_endMillPhase (r s : State) :
    ∃ p, (p = s.step.phase ∨ p = 2) ∧
      behindShapes r (endMillPhase s) = behindShapes r { s with step := { s.step with phase := p } } := by
  unfold endMillPhase; dsimp only; split
  · refine ⟨2, .inr rfl, ?_⟩
    split
    · have hcount := behindShapes_of_behindTensors (behindTensors_countUpdates r s)
      exact congrArg (fun x : State => { x with step := { x.step with phase := 2 } }) hcount
    · rfl
  · exact ⟨_, .inl rfl, rfl⟩

/-- A skipped update: the mills' draws and the update state advance, the step is marked, and the event is raised (R278). -/
theorem behindShapes_skippedUpdate (r s : State) (u : BitVec 128) (e : EventArgs) (he : e.nmi = false) :
    behindShapes r (raise { skipMills s with job := { (skipMills s).job with update := u },
                                             step := { (skipMills s).step with skipped := true } } e) =
      behindShapes r { s with step := { s.step with skipped := true } } := by
  have hskip := behindShapes_skipMills r s
  have hstep : (skipMills s).step = s.step := view_of_mask hskip State.step fun _ => rfl
  generalize skipMills s = t at hskip hstep ⊢
  refine (behindShapes_of_behindMemory (behindMemory_raise r _ e he)).trans ((behindShapes_withUpdate r t _ _).trans ?_)
  rw [hstep]
  exact behindShapes_withStep hskip _

/-- The beginning of the mill phase: the step is in it, or past it where no mill has work; the rest of the module keeps all but the
memories, the seal's dirty set and what the mills keep of the job (R267, R278). -/
theorem behindShapes_beginMillPhase (r s : State) (vote : Bool) (causes : Nat) :
    ∃ p, 1 ≤ p ∧ behindShapes r (beginMillPhase s vote causes) = behindShapes r { s with step := inMillPhase s.step vote p } := by
  unfold beginMillPhase; dsimp only
  generalize hu : rememberShapes (countFrozen _) = u
  have hshape : behindShapes r u =
      behindShapes r { s with step := { inMillPhase s.step vote 1 with skipped := s.step.skipped } } := by
    rw [← hu, behindShapes_rememberShapes, behindShapes_of_behindTensors (behindTensors_countFrozen r _),
      behindShapes_of_behindMemory (behindMemory_trace r _ _ _ _ _ _)]
    rfl
  have hustep : u.step = { inMillPhase s.step vote 1 with skipped := s.step.skipped } := view_of_mask hshape State.step fun _ => rfl
  generalize ht : (if vote = true then u else _) = t
  have henter : behindShapes r t = behindShapes r { s with step := inMillPhase s.step vote 1 } := by
    subst ht
    cases vote with
    | true => simpa [inMillPhase] using hshape
    | false =>
      refine (behindShapes_skippedUpdate r u _ _ rfl).trans ((behindShapes_withStep hshape _).trans ?_)
      simp [hustep, inMillPhase]
  have hstep : t.step = inMillPhase s.step vote 1 := view_of_mask henter State.step fun _ => rfl
  obtain ⟨p, hp, hend⟩ := behindShapes_endMillPhase r t
  refine ⟨p, ?_, ?_⟩
  · rcases hp with rfl | rfl
    · simp [hstep, inMillPhase]
    · decide
  · rw [hend, behindShapes_withStep henter, hstep]; rfl

/-- The mill phase does not begin, or it begins with the vote's result. -/
theorem tryMillPhase_cases (s : State) :
    tryMillPhase s = s ∨
      ∃ v p, 1 ≤ p ∧ behindShapes s (tryMillPhase s) = behindShapes s { s with step := inMillPhase s.step v p } := by
  unfold tryMillPhase
  generalize (s.step.active && _ && _ && _ : Bool) = due
  cases due with
  | false => exact .inl rfl
  | true =>
    cases voteResult s with
    | none => exact .inl rfl
    | some v => exact .inr ⟨v, behindShapes_beginMillPhase s s v _⟩

/-! ### A step begins (R418) -/

/-- What a beginning step takes from its dispatch and the clock. -/
structure StepHead where
  active     : Bool
  number     : BitVec 48
  plan       : Nat
  cursor     : BitVec 48
  upd        : List (BitVec 512)
  start      : Nat
  jobStep    : BitVec 48
  committed  : BitVec 32
  dispatches : List Dispatch
  lastBegun  : BitVec 48

/-- The head of the step as a state holds it. -/
def stepHead (s : State) : StepHead :=
  ⟨s.step.active, s.step.number, s.step.plan, s.step.cursor, s.step.upd, s.step.start, s.ident.jobStep, s.ident.committed,
    s.job.dispatches, s.job.lastBegun⟩

theorem tryMillPhase_stepHead (s : State) : stepHead (tryMillPhase s) = stepHead s := by
  rcases tryMillPhase_cases s with h | ⟨v, p, _, h⟩
  · rw [h]
  · exact view_of_mask h stepHead fun _ => rfl

theorem tryMillPhase_dueHold (s : State) : (tryMillPhase s).job.dueHold = s.job.dueHold := by
  rcases tryMillPhase_cases s with h | ⟨v, p, _, h⟩
  · rw [h]
  · exact view_of_mask h (·.job.dueHold) fun _ => rfl

/-- While the step stays in phase 0 its operations still run, and no mill phase has touched the memories. -/
theorem tryMillPhase_mem (s : State) (h : (tryMillPhase s).step.phase = 0) : (tryMillPhase s).mem = s.mem := by
  rcases tryMillPhase_cases s with hsame | ⟨v, p, hp, hmill⟩
  · rw [hsame]
  · have hphase : (tryMillPhase s).step.phase = p := view_of_mask hmill (·.step.phase) fun _ => rfl
    omega

/-- A descriptor of another step's number makes the contribution false and leaves the hold due; nothing else behind the host interface
changes (R276). -/
theorem checkSkew_cases (s : State) :
    (checkSkew s = s ∧ ∀ x ∈ s.step.upd, udStep x = s.step.number.toNat) ∨
      behindHost s (checkSkew s) = behindHost s { addCause s 8 with job := { s.job with dueHold := 4 } } := by
  unfold checkSkew
  split
  · exact .inr (behindHost_raise s _ _ rfl)
  next hfind =>
    refine .inl ⟨rfl, fun x hx => ?_⟩
    obtain ⟨i, hi, rfl⟩ := List.getElem_of_mem hx
    simpa using List.find?_eq_none.1 hfind (s.step.upd[i], i) (by simp [List.mem_zipIdx_iff_getElem?])

theorem checkSkew_stepHead (s : State) : stepHead (checkSkew s) = stepHead s := by
  rcases checkSkew_cases s with ⟨h, _⟩ | h
  · rw [h]
  · exact view_of_mask h stepHead fun _ => rfl

theorem checkSkew_mem (s : State) : (checkSkew s).mem = s.mem := by
  rcases checkSkew_cases s with ⟨h, _⟩ | h
  · rw [h]
  · exact view_of_mask h State.mem fun _ => rfl

theorem checkSkew_dueHold (s : State) (h : ∃ x ∈ s.step.upd, udStep x ≠ s.step.number.toNat) : (checkSkew s).job.dueHold = 4 := by
  rcases checkSkew_cases s with ⟨_, hall⟩ | hskew
  · obtain ⟨x, hx, hne⟩ := h
    exact absurd (hall x hx) hne
  · exact view_of_mask hskew (·.job.dueHold) fun _ => rfl

/-- The operating point moves in the power state only (R449, R450). -/
theorem behindHost_settlePoint (r s : State) (free : Bool) :
    ∃ pw, behindHost r (settlePoint s free) = behindHost r { s with pow := pw } := by
  unfold settlePoint; dsimp only; split
  · exact ⟨_, (behindHost_raise r _ _ rfl).trans (behindHost_trace r _ _ _ _ _ _)⟩
  · exact ⟨s.pow, rfl⟩

/-- The head of a step that a dispatch begins. -/
def dispatchHead (s : State) (d : Dispatch) (rest : List Dispatch) : StepHead :=
  ⟨true, d.step, d.plan, d.cursor, d.upd, timebase s, d.step, s.ident.committed, rest, d.step⟩

/-- The operating point's settling, the trace and the start of calibrations at a step's beginning touch neither the step's head nor the
memories (R162, R449). -/
theorem startCalibrations_settled (s : State) (a b c d e : Nat) (calib : Bool) :
    let u := startCalibrations (trace (settlePoint s true) a b c d e)
    stepHead { u with step := { u.step with calib := calib } } = stepHead s ∧ u.mem = s.mem := by
  intro u
  obtain ⟨pw, hsettle⟩ := behindHost_settlePoint s s true
  have hu : behindTensors s u = behindTensors s { s with pow := pw } :=
    (behindTensors_startCalibrations s _).trans (behindTensors_of_behindHost ((behindHost_trace s _ a b c d e).trans hsettle))
  have hhead : stepHead u = stepHead s := view_of_mask hu stepHead fun _ => rfl
  exact ⟨hhead, view_of_mask hu State.mem fun _ => rfl⟩

/-- A step begins by taking its head from the dispatch, the memories kept but for the list of units that raised an event; then its
descriptors are compared with its number, and its mill phase begins where it has no operation to wait for (R252, R276, R418). -/
theorem beginStep_eq (s : State) (d : Dispatch) (rest : List Dispatch) :
    ∃ u, beginStep s d rest = tryMillPhase (checkSkew u) ∧ stepHead u = dispatchHead s d rest ∧
      u.mem = { s.mem with ueRaised := [] } := by
  unfold beginStep
  exact ⟨_, rfl, (startCalibrations_settled _ _ _ _ _ _ _).1, (startCalibrations_settled _ _ _ _ _ _ false).2⟩

/-- The step's head is the dispatch's, whatever follows its beginning at once. -/
theorem beginStep_stepHead (s : State) (d : Dispatch) (rest : List Dispatch) :
    stepHead (beginStep s d rest) = dispatchHead s d rest := by
  obtain ⟨u, hbegin, hhead, _⟩ := beginStep_eq s d rest
  rw [hbegin, tryMillPhase_stepHead, checkSkew_stepHead, hhead]

theorem beginStep_sameMemory (s : State) (d : Dispatch) (rest : List Dispatch) (h : (beginStep s d rest).step.phase = 0) :
    sameMemory s (beginStep s d rest) := by
  obtain ⟨u, hbegin, _, hmem⟩ := beginStep_eq s d rest
  rw [hbegin] at h ⊢
  unfold sameMemory
  rw [tryMillPhase_mem _ h, checkSkew_mem, hmem]

theorem beginStep_dueHold (s : State) (d : Dispatch) (rest : List Dispatch) (h : ∃ x ∈ d.upd, udStep x ≠ d.step.toNat) :
    (beginStep s d rest).job.dueHold = 4 := by
  obtain ⟨u, hbegin, hhead, _⟩ := beginStep_eq s d rest
  have hupd : u.step.upd = d.upd := congrArg StepHead.upd hhead
  have hnumber : u.step.number = d.step := congrArg StepHead.number hhead
  rw [hbegin, tryMillPhase_dueHold]
  exact checkSkew_dueHold u (by rwa [hupd, hnumber])

theorem execStepBegin_dispatched {s : State} {d : Dispatch} {rest : List Dispatch} (hstop : stopped s = false)
    (hrun : s.job.state = 2) (hidle : s.step.active = false) (hbarrier : s.step.barrier = 0) (hd : s.job.dispatches = d :: rest) :
    exec .stepBegin s = .next (beginStep s d rest) := by
  show execStepBegin s = _
  simp [execStepBegin, hstop, hrun, hidle, hbarrier, hd]

/-! ### An operation starts (R412) -/

/-- Identity, fuses, the records of the step's operations, and how far each is. -/
abbrev OpsView := IdentSt × FuseSt × List (Nat × OpRun) × List (Nat × Nat)

/-- What the start of an operation must not disturb, beyond what it writes for the operation itself. -/
def opsView (s : State) : OpsView := (s.ident, s.fuses, s.eng.ops, s.step.ops)

/-- The view with operation op at stage k: 1 started, 2 completed. -/
def OpsView.stage (v : OpsView) (op k : Nat) : OpsView := (v.1, v.2.1, v.2.2.1, mapSet v.2.2.2 op k)

/-- The view with a record written for operation op. -/
def OpsView.record (v : OpsView) (op : Nat) (x : OpRun) : OpsView := (v.1, v.2.1, mapSet v.2.2.1 op x, v.2.2.2)

theorem opsView_of_behindHost {r s t : State} (h : behindHost r s = behindHost r t) : opsView s = opsView t :=
  view_of_mask h opsView fun _ => rfl

theorem opsView_ite {c : Prop} [Decidable c] {s t u : State} (ht : opsView t = opsView s) (hu : opsView u = opsView s) :
    opsView (if c then t else u) = opsView s := by
  split
  · exact ht
  · exact hu

/-- A conditional change that the view does not show. -/
theorem opsView_ite_then {c : Prop} [Decidable c] {s t : State} (h : opsView t = opsView s) :
    opsView (if c then t else s) = opsView s := opsView_ite h rfl

theorem opsView_ite_else {c : Prop} [Decidable c] {s t : State} (h : opsView t = opsView s) :
    opsView (if c then s else t) = opsView s := opsView_ite rfl h

theorem opsView_trace (s : State) (a b c d e : Nat) : opsView (trace s a b c d e) = opsView s :=
  opsView_of_behindHost (behindHost_trace s s a b c d e)

theorem opsView_withAssay (s : State) (x : AssaySt) : opsView { s with assay := x } = opsView s := rfl

theorem opsView_withFab (s : State) (x : FabSt) : opsView { s with fab := x } = opsView s := rfl

theorem opsView_withCarters (s : State) (x : List (Nat × CarterSt)) :
    opsView { s with eng := { s.eng with carters := x } } = opsView s := rfl

theorem opsView_withSubq (s : State) (x : List (Nat × List UnitId)) :
    opsView { s with eng := { s.eng with subq := x } } = opsView s := rfl

theorem opsView_withInherited (s : State) (x : List (Nat × (Nat × Nat))) :
    opsView { s with job := { s.job with inherited := x } } = opsView s := rfl

theorem opsView_withCauses (s : State) (x : Nat) : opsView { s with step := { s.step with causes := x } } = opsView s := rfl

theorem opsView_setLayerStat (s : State) (l : Nat) (x : LayerStat) : opsView (setLayerStat s l x) = opsView s :=
  opsView_withAssay s _

theorem opsView_addFlush (s : State) (l which k : Nat) : opsView (addFlush s l which k) = opsView s := by
  unfold addFlush
  exact opsView_ite_else (opsView_setLayerStat s _ _)

theorem opsView_flushInput (s : State) (h k : Nat) : opsView (flushInput s h k) = opsView s := by
  unfold flushInput
  refine opsView_ite_else (foldl_keeps opsView _ (fun s l => ?_) _ s)
  exact opsView_ite (opsView_addFlush s _ 0 k)
    (opsView_ite (opsView_addFlush s _ 1 k) (opsView_ite_then (opsView_addFlush s _ 2 k)))

/-- The flushes of an operation's inputs are counted in the Assayer's figures only (R130). -/
theorem opsView_countFlushes (s : State) (op : Nat) (e : Entry) : opsView (countFlushes s op e) = opsView s := by
  unfold countFlushes
  exact opsView_ite_else ((opsView_flushInput _ _ _).trans ((opsView_flushInput _ _ _).trans (opsView_flushInput s _ _)))

theorem opsView_addRun (s : State) (c slot : Nat) (x : Run) : opsView (addRun s c slot x) = opsView s := by
  unfold addRun
  exact opsView_ite_else (opsView_withCarters s _)

theorem opsView_calibrate (s : State) (h : Nat) : opsView (calibrate s h) = opsView s := by
  unfold calibrate calibrateTo
  exact opsView_ite_else (opsView_ite_else (opsView_withAssay s _))

/-! ### An operation completes (R179, R267, R341) -/

theorem opsView_sendFrame (s : State) (a : FrameArgs) : opsView (sendFrame s a) = opsView s := by
  unfold sendFrame enqueue; split
  · rfl
  · split
    · exact opsView_withFab s _
    · exact opsView_withFab s _

/-- Slots of stage queues that are released change the fabric only (R341, R342). -/
theorem opsView_releaseSlots (s : State) (e : Entry) : opsView (releaseSlots s e) = opsView s := by
  unfold releaseSlots
  refine foldl_keeps opsView _ (fun s q => ?_) _ s
  exact opsView_ite_then (opsView_ite (opsView_withFab s _) ((opsView_sendFrame _ _).trans (opsView_withFab s _)))

theorem opsView_keepGather (s : State) (e : Entry) : opsView (keepGather s e) = opsView s := by
  unfold keepGather
  exact opsView_ite_then (opsView_withFab s _)

/-- A norm test changes the Assayer's figures, the causes of a false contribution and the host interface only (R159). -/
theorem opsView_localNorm (s : State) (l : SteerLayer) (grad : Bool) : opsView (localNorm s l grad) = opsView s := by
  unfold localNorm; dsimp only
  refine opsView_ite_else ((opsView_ite_else (opsView_ite_else ?_)).trans (opsView_setLayerStat s _ _))
  refine (opsView_ite_else ?_).trans (opsView_withCauses _ _)
  exact (opsView_of_behindHost (behindHost_raise s _ _ rfl)).trans (opsView_setLayerStat _ _ _)

theorem opsView_normTests (s : State) (e : Entry) : opsView (normTests s e) = opsView s := by
  unfold normTests
  refine foldl_keeps opsView _ (fun s l => ?_) _ s
  exact (opsView_ite_then (opsView_localNorm _ l true)).trans (opsView_ite_then (opsView_localNorm s l false))

theorem opsView_tryMillPhase (s : State) : opsView (tryMillPhase s) = opsView s := by
  rcases tryMillPhase_cases s with h | ⟨v, p, _, h⟩
  · rw [h]
  · exact view_of_mask h opsView fun _ => rfl

/-- An operation that completes keeps its record, and is listed as completed. -/
theorem opsView_completeOp (s : State) (op : Nat) : opsView (completeOp s op) = (opsView s).stage op 2 := by
  unfold completeOp; dsimp only
  refine (opsView_tryMillPhase _).trans ((opsView_normTests _ _).trans ((opsView_keepGather _ _).trans
    ((opsView_releaseSlots _ _).trans ?_)))
  exact congrArg (OpsView.stage · op 2) (opsView_trace s 3 1 op s.step.plan (opRun s op).tiles)

/-- Operation op goes on as it was, or has completed. -/
def KeepsOrEnds (op : Nat) (s t : State) : Prop := opsView t = opsView s ∨ opsView t = (opsView s).stage op 2

theorem KeepsOrEnds.of_keeps {op : Nat} {s t u : State} (h : opsView t = opsView s) (htu : KeepsOrEnds op t u) : KeepsOrEnds op s u := by
  unfold KeepsOrEnds at htu ⊢
  rwa [← h]

theorem tryCompleteLoom_keepsOrEnds (s : State) (op : Nat) : KeepsOrEnds op s (tryCompleteLoom s op) := by
  unfold tryCompleteLoom; split
  · exact .inr (opsView_completeOp s op)
  · exact .inl rfl

theorem tryCompleteVector_keepsOrEnds (s : State) (op : Nat) : KeepsOrEnds op s (tryCompleteVector s op) := by
  unfold tryCompleteVector; dsimp only; split
  · exact .inr (opsView_completeOp _ op)
  · exact .inl rfl

/-- A loom operation's units, runs and flushes are set up beside its record; one with nothing to do completes at once (R110, R228). -/
theorem startLoom_keepsOrEnds (s : State) (op : Nat) (e : Entry) : KeepsOrEnds op s (startLoom s op e) := by
  unfold startLoom; split
  · exact tryCompleteLoom_keepsOrEnds s op
  · dsimp only
    refine .of_keeps ?_ (tryCompleteLoom_keepsOrEnds _ op)
    refine (opsView_ite_then (opsView_withInherited _ _)).trans ?_
    refine (foldl_keeps opsView _ (fun s i => ?_) _ _).trans ?_
    · split
      · exact (opsView_addRun _ _ _ _).trans (opsView_ite_else (opsView_addRun s _ _ _))
      · exact opsView_ite_else (opsView_addRun s _ _ _)
    refine (opsView_ite_else (opsView_addRun _ _ _ _)).trans ?_
    exact (foldl_keeps opsView _ (fun s _ => opsView_withSubq s _) _ _).trans (opsView_countFlushes s op e)

/-! ### An operation starts, whatever its kind -/

/-- The entry of an operation as it is admitted: steered formats, and the gather policy (R12, R108, R128, R338). -/
def admittedEntry (s : State) (op : Nat) : Entry := gatherPolicy s (steerEntry s (steeredFmt s) (planEntry s s.step.plan op))

theorem opsView_addCounter (s : State) (n k : Nat) : opsView (addCounter s n k) = opsView s :=
  opsView_of_behindHost (behindHost_addCounter s s n k)

/-- Slots are armed and the operation joins the order of starts beside its record. -/
theorem opsView_listStarted (s : State) (op : Nat) (e : Entry) (order : List Nat) :
    opsView { keepArms s op e with eng := { (keepArms s op e).eng with order := order },
                                   step := { (keepArms s op e).step with ops := mapSet (keepArms s op e).step.ops op 1 } } =
      (opsView s).stage op 1 := rfl

/-- The operation's record is written before and after the first pass of a calibration, which leaves the records alone (R163). -/
theorem opsView_recordTwice (s : State) (op h : Nat) (x y : OpRun) :
    opsView (setOpRun (calibrate (setOpRun s op x) h) op y) = ((opsView s).record op x).record op y :=
  congrArg (OpsView.record · op y) (opsView_calibrate (setOpRun s op x) h)

/-- An operation that starts has the record of its admitted entry and is listed as started; then it goes on, or completes at once. -/
theorem startOp_admits (s : State) (op : Nat) :
    ∃ u x y, y.entry = admittedEntry s op ∧ opsView u = (((opsView s).record op x).record op y).stage op 1 ∧
      KeepsOrEnds op u (startOp s op) := by
  unfold startOp; dsimp only
  generalize hentry : gatherPolicy s _ = e
  generalize hx : opRecord s e = x
  generalize ht : calibrate (setOpRun s op x) (outputTensor e) = t
  generalize hy : opRecord t e = y
  generalize hv : setOpRun t op y = v
  generalize hu : trace _ 3 0 op _ 0 = u
  refine ⟨u, x, y, ?_, ?_, ?_⟩
  · rw [← hy]; exact hentry.symm
  · have hrecords : opsView v = ((opsView s).record op x).record op y := by
      rw [← hv, ← ht]; exact opsView_recordTwice s op _ x y
    rw [← hu, opsView_trace, ← hrecords]
    exact (opsView_ite_then (opsView_addCounter _ _ _)).trans (opsView_listStarted v op e _)
  · split
    · exact startLoom_keepsOrEnds u op e
    · exact tryCompleteVector_keepsOrEnds u op
    · exact .inl rfl

/-- What a state in view says of an operation that was given record y last and is at stage k. -/
theorem opsView_started {s t : State} {v : OpsView} {op k : Nat} {y : OpRun} (hs : v.1 = s.ident ∧ v.2.1 = s.fuses)
    (h : opsView t = (v.record op y).stage op k) :
    mapGet t.step.ops op 0 = k ∧ opRun t op = y ∧ t.fuses = s.fuses ∧ t.ident = s.ident := by
  simp only [opsView, OpsView.stage, OpsView.record, Prod.mk.injEq] at h
  obtain ⟨hident, hfuses, hops, hlisted⟩ := h
  refine ⟨?_, ?_, hfuses.trans hs.2, hident.trans hs.1⟩
  · simp [hlisted, mapGet, mapFind_mapSet]
  · simp [opRun, hops, mapGet, mapFind_mapSet]

/-- A started operation is listed, its record holds the admitted entry, and identity and fuses stay (R412). -/
theorem startOp_spec (s : State) (op : Nat) :
    1 ≤ mapGet (startOp s op).step.ops op 0 ∧ (opRun (startOp s op) op).entry = admittedEntry s op ∧
      (startOp s op).fuses = s.fuses ∧ (startOp s op).ident = s.ident := by
  obtain ⟨u, x, y, hy, hu, hgoes⟩ := startOp_admits s op
  rcases hgoes with h | h
  · obtain ⟨hstage, hrun, hkept⟩ := opsView_started (s := s) ⟨rfl, rfl⟩ (h.trans hu)
    exact ⟨by omega, hrun ▸ hy, hkept⟩
  · have hended : opsView (startOp s op) = ((((opsView s).record op x).stage op 1).record op y).stage op 2 :=
      h.trans (congrArg (OpsView.stage · op 2) hu)
    obtain ⟨hstage, hrun, hkept⟩ := opsView_started (s := s) ⟨rfl, rfl⟩ hended
    exact ⟨by omega, hrun ▸ hy, hkept⟩

/-- Settles O48. The step: its head comes from the dispatch (`beginStep_stepHead`), the memories stay while no mill phase has begun
(`beginStep_sameMemory`), and a descriptor of another step's number leaves the hold due (`beginStep_dueHold`). The operation: its start
writes the record that holds the admitted entry, and what follows at once keeps that record (`startOp_spec`). -/
theorem stepAndOperationBegin : Obligations.StepAndOperationBegin := by
  intro d rest op s
  refine ⟨fun hstop hrun hidle hbarrier hd => ⟨_, execStepBegin_dispatched hstop hrun hidle hbarrier hd, ?_⟩,
    fun hready => ⟨startOp s op, ?_, startOp_spec s op⟩⟩
  · have hhead := beginStep_stepHead s d rest
    simp only [stepHead, dispatchHead, StepHead.mk.injEq] at hhead
    obtain ⟨hactive, hnumber, hplan, hcursor, hupd, hstart, hjobStep, hcommitted, hdispatches, hlast⟩ := hhead
    exact ⟨hactive, hnumber, hplan, hcursor, hupd, hstart, hjobStep, hdispatches, hlast, hcommitted,
      beginStep_sameMemory s d rest, beginStep_dueHold s d rest⟩
  · show execOperationStart op s = _
    simp [execOperationStart, hready]

end Sys2Proof.Machine
end

section
/-! O18: TENSOR_SET. A mailbox row that is granted ends with its command's reply; the command leaves one change waiting; the change
acts on its tensor. -/

namespace Sys2Proof.Machine

/-! ### A granted mailbox row -/

/-- A granted row ends its command, with the reply that the command's rule gives (R393, R396). -/
theorem mailboxRow_granted {op : Nat} {rq : MbReq} {s : State} (hop : op < 65536) (hg : granted op rq s = true) :
    mailboxRow op (commandOf op) rq s = finishCommand (outcome op rq s).1 (asReq op rq) (outcome op rq s).2 := by
  simp only [granted, Bool.and_eq_true, Option.isNone_iff_eq_none] at hg
  obtain ⟨⟨haccepted, _⟩, hends⟩ := hg
  rw [mailboxRow_accepted op _ rq s hop haccepted]
  unfold outcome at hends ⊢
  rw [hends]

/-- A granted row is carried out, and leaves behind the host interface what its command left there (R393, R394). -/
theorem carriedOut_of_granted {c : Instr} {op : Nat} {rq : MbReq} {s : State} {P : State → Prop} (hop : op < 65536)
    (hexec : exec c s = .next (mailboxRow op (commandOf op) rq s)) (hg : granted op rq s = true)
    (hP : ∀ t, behindHost s t = behindHost s (outcome op rq s).1 → P t) : carriedOut c op rq s P := by
  refine ⟨_, hexec, ?_, ?_⟩
  · have hstatus : (outcome op rq s).2.status = 0 := by
      simp only [granted, Bool.and_eq_true, beq_iff_eq] at hg
      obtain ⟨⟨_, hstatus⟩, _⟩ := hg
      exact hstatus
    rw [mailboxRow_granted hop hg, ← hstatus]
    exact answered_finishCommand _ (asReq op rq) _ hop rq.tag.isLt
  · rw [mailboxRow_granted hop hg]
    exact hP _ (behindHost_finishCommand s _ _ _)

/-! ### Payload bytes (R13, R403) -/

theorem natOfBytes_lt (bs : List Byte) : natOfBytes bs < 256 ^ bs.length := by
  induction bs with
  | nil => simp [natOfBytes]
  | cons b bs ih =>
    have hb := b.isLt
    simp only [natOfBytes, List.length_cons, Nat.pow_succ]
    omega

theorem leAt_lt (bs : List Byte) (off size : Nat) : leAt bs off size < 256 ^ size :=
  Nat.lt_of_lt_of_le (natOfBytes_lt _) (Nat.pow_le_pow_right (by decide) (List.length_take_le _ _))

/-- Zero bytes at the most significant end do not change a number. -/
theorem natOfBytes_append_zeros (bs : List Byte) (n : Nat) : natOfBytes (bs ++ List.replicate n 0#8) = natOfBytes bs := by
  induction bs with
  | nil =>
    induction n with
    | zero => rfl
    | succ n ih =>
      simp only [List.nil_append, List.replicate_succ, natOfBytes] at ih ⊢
      rw [ih]; rfl
  | cons b bs ih => simp only [List.cons_append, natOfBytes, ih]

theorem fitBytes_length (bs : List Byte) (n : Nat) : (fitBytes bs n).length = n := by
  simp only [fitBytes, slice, List.drop_zero, List.length_append, List.length_replicate, List.length_take]
  omega

/-- A row's own sub-action leaves the payload before it as the host wrote it. -/
theorem leAt_withAction_before (rq : MbReq) (off v : Nat) : leAt (withAction rq off v).payload 0 off = leAt rq.payload 0 off := by
  have hbefore : (withAction rq off v).payload.take off = fitBytes rq.payload off := by
    simp only [withAction, List.append_assoc]
    exact List.take_left' (fitBytes_length rq.payload off)
  simp only [leAt, List.drop_zero, hbefore]
  exact natOfBytes_append_zeros _ _

theorem byteAt_withAction (rq : MbReq) (off : Nat) {v : Nat} (hv : v < 256) :
    (byteAt (withAction rq off v).payload off).toNat = v := by
  simp [byteAt, withAction, fitBytes_length, Nat.mod_eq_of_lt hv]

/-! ### The command (R283, R401, R534) -/

/-- The payload byte that makes TENSOR_SET refuse to act on tensor x: its action, or a value that is no positive normal bfloat16. -/
def tensorSetFault (s : State) (r : Req) (x : Tensor) : Option Nat :=
  let (h, action, v) := (leAt r.payload 0 4, (byteAt r.payload 4).toNat, leAt r.payload 6 2)
  firstBad [(4, action == 0 || decide (6 < action) || ((action == 3 || action == 4) && !ownScale s h x)),
    (6, (action == 3 || action == 6) && !bf16PosNormal v)]

theorem cmdTensorSet_refused {s : State} {r : Req} {x : Tensor} {o : Nat} (hx : tensorOf s (leAt r.payload 0 4) = some x)
    (hfault : tensorSetFault s r x = some o) : cmdTensorSet s r = (s, refuse REFUSE_TENSOR 534 5 o) := by
  unfold tensorSetFault at hfault
  simp only [cmdTensorSet, hx, hfault]

theorem cmdTensorSet_queued {s : State} {r : Req} {x : Tensor} (hx : tensorOf s (leAt r.payload 0 4) = some x)
    (hfault : tensorSetFault s r x = none) :
    cmdTensorSet s r = (putDue s (.tensorSet (BitVec.ofNat 32 (leAt r.payload 0 4)) (byteAt r.payload 4).toNat
      (BitVec.ofNat 16 (leAt r.payload 6 2))), done []) := by
  unfold tensorSetFault at hfault
  simp only [cmdTensorSet, hx, hfault]

/-- Freezing, unfreezing and clearing the history suit every tensor, and read no value. -/
theorem tensorSetFault_none (s : State) (r : Req) (x : Tensor) (haction : (byteAt r.payload 4).toNat ∈ [1, 2, 5]) :
    tensorSetFault s r x = none := by
  unfold tensorSetFault
  generalize (byteAt r.payload 4).toNat = action at haction
  simp only [List.mem_cons, List.not_mem_nil, or_false] at haction
  rcases haction with rfl | rfl | rfl <;> rfl

/-! ### The rows -/

section
variable {rq : MbReq} {s : State} {x : Tensor} {k : Nat}

/-- The tensor named is the job's own when the command is carried out. -/
theorem tensorOf_begun (op : Nat) (hx : tensorOf s (leAt rq.payload 0 4) = some x) :
    tensorOf (begun op (withAction rq 4 k) s) (leAt (asReq op (withAction rq 4 k)).payload 0 4) = some x := by
  show mapFind (begun op _ s).job.tensors (leAt (withAction rq 4 k).payload 0 4) = some x
  rw [begun_job, leAt_withAction_before]
  exact hx

/-- A granted TENSOR_SET leaves its change waiting. -/
theorem outcome_tensorSet (hx : tensorOf s (leAt rq.payload 0 4) = some x) (hk : k < 256)
    (hg : granted 0x0021 (withAction rq 4 k) s = true) :
    outcome 0x0021 (withAction rq 4 k) s =
      (putDue (begun 0x0021 (withAction rq 4 k) s) (tensorChange (withAction rq 4 k) k), done []) := by
  have hnamed := tensorOf_begun (k := k) 0x0021 hx
  show cmdTensorSet _ _ = _
  cases hfault : tensorSetFault (begun 0x0021 (withAction rq 4 k) s) (asReq 0x0021 (withAction rq 4 k)) x with
  | some o =>
    have hout : outcome 0x0021 (withAction rq 4 k) s = _ := cmdTensorSet_refused hnamed hfault
    rw [granted, hout] at hg
    simp [refuse, refuseWith, REFUSE_TENSOR] at hg
  | none =>
    rw [cmdTensorSet_queued hnamed hfault]
    simp only [asReq, byteAt_withAction rq 4 hk, tensorChange]

/-- Actions 1, 2 and 5 on a tensor of the job are granted as soon as they are accepted. -/
theorem granted_tensorSet (hx : tensorOf s (leAt rq.payload 0 4) = some x) (hk : k ∈ [1, 2, 5])
    (ha : accepted 0x0021 (withAction rq 4 k) s = true) : granted 0x0021 (withAction rq 4 k) s = true := by
  have hbyte : ∀ j ∈ [1, 2, 5], j < 256 := by decide
  have haction : (byteAt (asReq 0x0021 (withAction rq 4 k)).payload 4).toNat = k := byteAt_withAction rq 4 (hbyte k hk)
  have hfault := tensorSetFault_none (begun 0x0021 (withAction rq 4 k) s) (asReq 0x0021 (withAction rq 4 k)) x (haction.symm ▸ hk)
  have hout : outcome 0x0021 (withAction rq 4 k) s = _ := cmdTensorSet_queued (tensorOf_begun 0x0021 hx) hfault
  rw [granted, hout, ha]
  rfl

/-- The change of TENSOR_SET, at its boundary, acts on the tensor named; a cleared history may begin calibration (R162, log 119). -/
theorem applyDue_tensorChange (hx : tensorOf s (leAt rq.payload 0 4) = some x) :
    applyDue s (tensorChange (withAction rq 4 k) k) =
      let u := setTensor s (leAt rq.payload 0 4) (setAction x k (leAt (withAction rq 4 k).payload 6 2))
      if k = 5 then beginCalibration u (leAt rq.payload 0 4) else u := by
  have hvalue : leAt (withAction rq 4 k).payload 6 2 % 2 ^ 16 = leAt (withAction rq 4 k).payload 6 2 :=
    Nat.mod_eq_of_lt (leAt_lt _ 6 2)
  have hhandle : leAt rq.payload 0 4 % 2 ^ 32 = leAt rq.payload 0 4 := Nat.mod_eq_of_lt (leAt_lt _ 0 4)
  simp only [tensorChange, applyDue, leAt_withAction_before, BitVec.toNat_ofNat, hvalue, hhandle, applyTensorSet, hx]

/-- A granted TENSOR_SET completes, and the change it leaves waiting acts on its tensor. -/
theorem carriedOut_tensorSet {c : Instr} (hexec : exec c s = .next (mailboxRow 0x0021 cmdTensorSet (withAction rq 4 k) s))
    (hx : tensorOf s (leAt rq.payload 0 4) = some x) (hk : k < 256) (hg : granted 0x0021 (withAction rq 4 k) s = true) :
    carriedOut c 0x0021 (withAction rq 4 k) s fun t =>
      ∃ b, behindHost s t = { s with job := { s.job with due := s.job.due ++ [b] } } ∧ applyDue s b =
        let u := setTensor s (leAt rq.payload 0 4) (setAction x k (leAt (withAction rq 4 k).payload 6 2))
        if k = 5 then beginCalibration u (leAt rq.payload 0 4) else u := by
  refine carriedOut_of_granted (by decide) hexec hg fun t ht => ⟨_, ?_, applyDue_tensorChange hx⟩
  rw [ht, outcome_tensorSet hx hk hg]
  exact congrArg (putDue · _) (behindHost_begun 0x0021 (withAction rq 4 k) s s)

end

/-- Settles O18. Every row leaves its change waiting (`outcome_tensorSet`), and the change is the row's action on the tensor named
(`applyDue_tensorChange`); the rows whose action needs no further check are granted as soon as they are accepted. -/
theorem tensorSetTakesEffect : Obligations.TensorSetTakesEffect := by
  rintro rq s _ x rfl hx
  exact ⟨fun ha => carriedOut_tensorSet (k := 1) rfl hx (by decide) (granted_tensorSet hx (by decide) ha),
    fun ha => carriedOut_tensorSet (k := 2) rfl hx (by decide) (granted_tensorSet hx (by decide) ha),
    fun hg => carriedOut_tensorSet (k := 3) rfl hx (by decide) hg,
    fun hg => carriedOut_tensorSet (k := 4) rfl hx (by decide) hg,
    fun ha => carriedOut_tensorSet (k := 5) rfl hx (by decide) (granted_tensorSet hx (by decide) ha),
    fun hg => carriedOut_tensorSet (k := 6) rfl hx (by decide) hg⟩

end Sys2Proof.Machine
end

section
/-! O58: the 8-bit floating formats. A magnitude of a floating format is a whole number of its smallest subnormals, which the exponent
and fraction fields give; a code is its sign and its magnitude. -/

namespace Sys2Proof.Machine

/-! ### Magnitudes of a floating format (R28 to R30) -/

/-- The magnitude of index i in units of the smallest subnormal, in a format with fb fraction bits. -/
def gridUnits (fb i : Nat) : Nat :=
  if i / 2 ^ fb = 0 then i % 2 ^ fb else (2 ^ fb + i % 2 ^ fb) * 2 ^ (i / 2 ^ fb - 1)

/-- The exponent of a floating format's smallest subnormal. -/
def gridExp (f : Fmt) : Int := 1 - (f.floatShape.2 : Int) - f.floatShape.1

theorem magValue_float {f : Fmt} (hf : f.isFloat = true) (i : Nat) :
    magValue f i = if i / 2 ^ f.floatShape.1 = 0 then ⟨(i % 2 ^ f.floatShape.1 : Nat), gridExp f⟩
      else ⟨2 ^ f.floatShape.1 + (i % 2 ^ f.floatShape.1 : Nat), (i / 2 ^ f.floatShape.1 : Nat) - f.floatShape.2 - f.floatShape.1⟩ := by
  cases f with
  | f8a | f8b | bf16 | f16 | f32 => rfl
  | _ => simp [Fmt.isFloat] at hf

/-- A magnitude on the grid of the smallest subnormal, at an exponent −b that is not above the grid's. -/
theorem magValue_grid {f : Fmt} (hf : f.isFloat = true) (i : Nat) {b k : Nat} (hb : gridExp f + b = k) :
    0 ≤ (magValue f i).e + b ∧
      (magValue f i).m * 2 ^ ((magValue f i).e + b).toNat = (gridUnits f.floatShape.1 i : Int) * 2 ^ k := by
  rw [magValue_float hf]
  unfold gridUnits
  split
  next hsub => simp [hb]
  next hnormal =>
    have hexp : ((i / 2 ^ f.floatShape.1 : Nat) : Int) - f.floatShape.2 - f.floatShape.1 + b =
        ((i / 2 ^ f.floatShape.1 - 1 + k : Nat) : Int) := by
      unfold gridExp at hb
      generalize i / 2 ^ f.floatShape.1 = ex at hnormal
      omega
    dsimp only
    rw [hexp]
    refine ⟨Int.natCast_nonneg _, ?_⟩
    rw [Int.toNat_natCast, Int.pow_add]
    simp only [Int.natCast_mul, Int.natCast_add, Int.natCast_pow, Int.cast_ofNat_Int, Int.mul_assoc]

/-- The fields of an F8a magnitude: exponent [6:3], fraction [2:0] (R28). -/
theorem gridUnits_f8a (c : Nat) :
    gridUnits 3 (c % 128) = if c / 8 % 16 = 0 then c % 8 else (8 + c % 8) * 2 ^ (c / 8 % 16 - 1) := by
  have hexp : c % 128 / 8 = c / 8 % 16 := by omega
  have hfrac : c % 128 % 8 = c % 8 := by omega
  simp [gridUnits, hexp, hfrac]

/-- The fields of an F8b magnitude: exponent [6:2], fraction [1:0] (R29). -/
theorem gridUnits_f8b (c : Nat) :
    gridUnits 2 (c % 128) = if c / 4 % 32 = 0 then c % 4 else (4 + c % 4) * 2 ^ (c / 4 % 32 - 1) := by
  have hexp : c % 128 / 4 = c / 4 % 32 := by omega
  have hfrac : c % 128 % 4 = c % 4 := by omega
  simp [gridUnits, hexp, hfrac]

/-- A finite value's sign and exponent, and its significand, negative where the sign says so. -/
theorem numFin_fields (neg : Bool) (mag : Dy) :
    (numFin neg mag).cls = .finite ∧ (numFin neg mag).neg = neg ∧ (numFin neg mag).v.e = mag.e ∧
      (numFin neg mag).v.m = (if neg then -1 else 1) * mag.m := by
  cases neg <;> simp [numFin, dyNeg]

/-- A finite value in units of 2^−30, in a format whose smallest subnormal is 2^(k − 30). -/
theorem numFin_grid {f : Fmt} (hf : f.isFloat = true) (neg : Bool) (i : Nat) {k : Nat} (hk : gridExp f + (30 : Nat) = k) :
    (numFin neg (magValue f i)).neg = neg ∧ -30 ≤ (numFin neg (magValue f i)).v.e ∧
      (numFin neg (magValue f i)).v.m * 2 ^ ((numFin neg (magValue f i)).v.e + 30).toNat =
        (if neg then -1 else 1) * (gridUnits f.floatShape.1 i : Int) * 2 ^ k := by
  obtain ⟨_, hneg, hexp, hsig⟩ := numFin_fields neg (magValue f i)
  obtain ⟨hlow, hgrid⟩ := magValue_grid hf i hk
  refine ⟨hneg, by omega, ?_⟩
  rw [hexp, hsig, Int.mul_assoc, Int.mul_assoc]
  exact congrArg _ hgrid

/-! ### Codes (R28, R29) -/

/-- The sign and magnitude of an 8-bit floating code. -/
theorem splitCode_float8 {f : Fmt} (hf : f = .f8a ∨ f = .f8b) (c : Nat) : splitCode f c = (c.testBit 7, c % 128) := by
  have hsign : (c % 256).testBit 7 = c.testBit 7 := by simpa using Nat.testBit_mod_two_pow c 8 7
  have hmag : c % 256 % 128 = c % 128 := Nat.mod_mod_of_dvd c (by decide)
  rcases hf with rfl | rfl <;> simp [splitCode, Fmt.isInt, Fmt.width, hsign, hmag]

/-- Every magnitude of F8a but the last is finite (R28). -/
theorem decode_f8a (c : Nat) :
    decode .f8a false c = if c % 128 ≤ 126 then numFin (c.testBit 7) (magValue .f8a (c % 128)) else numNan := by
  simp [decode, splitCode_float8 (.inl rfl), Fmt.isInt, Fmt.isLog, Fmt.isB, Fmt.hasInf, Fmt.isIeee, maxMag]

/-- The last exponent of F8b holds infinity and NaN (R29). -/
theorem decode_f8b (c : Nat) :
    decode .f8b false c = if c % 128 ≤ 123 then numFin (c.testBit 7) (magValue .f8b (c % 128))
      else if c % 128 = 124 then numInf (c.testBit 7) else numNan := by
  simp [decode, splitCode_float8 (.inr rfl), Fmt.isInt, Fmt.isLog, Fmt.isB, Fmt.hasInf, maxMag, infCode]

theorem decode_f8a_cls (c : Nat) : (decode .f8a false c).cls = if c % 128 = 127 then .nan else .finite := by
  rw [decode_f8a]
  by_cases hnan : c % 128 = 127
  · simp [hnan, numNan]
  · rw [if_pos (by omega), if_neg hnan, (numFin_fields _ _).1]

theorem decode_f8b_cls (c : Nat) : (decode .f8b false c).cls =
    if c / 4 % 32 ≠ 31 then .finite else if c % 4 = 0 then (if c.testBit 7 then .negInf else .posInf) else .nan := by
  rw [decode_f8b]
  by_cases hfin : c / 4 % 32 = 31
  · rw [if_neg (show ¬ c % 128 ≤ 123 by omega), if_neg (show ¬ c / 4 % 32 ≠ 31 by omega)]
    by_cases hinf : c % 4 = 0
    · rw [if_pos (show c % 128 = 124 by omega), if_pos hinf]; rfl
    · rw [if_neg (show ¬ c % 128 = 124 by omega), if_neg hinf]; rfl
  · rw [if_pos (show c % 128 ≤ 123 by omega), if_pos hfin, (numFin_fields _ _).1]

/-- Settles O58. A finite code is its sign and its magnitude on the grid of the smallest subnormal, 2^−9 in F8a and 2^−16 in F8b. -/
theorem floatEightCodes : Obligations.FloatEightCodes := by
  intro c _
  refine ⟨decode_f8a_cls c, fun hfin => ?_, decode_f8b_cls c, fun hfin => ?_⟩
  · rw [decode_f8a, if_pos (by omega), ← gridUnits_f8a]
    exact numFin_grid (f := .f8a) (k := 21) rfl _ _ (by decide)
  · rw [decode_f8b, if_pos (by omega), ← gridUnits_f8b]
    exact numFin_grid (f := .f8b) (k := 14) rfl _ _ (by decide)

end Sys2Proof.Machine
end

section
/-! O50: the events of a loom. What a loom's work touches is said once for each shared operation: the start of a unit, the end of
streaming, the arrival of a partial, and time that passes until a reclaim. -/

namespace Sys2Proof.Machine

/-! ### Counters (R496) -/

theorem counterAt_addCounter (s : State) (n k j : Nat) :
    counterAt (addCounter s n k) j = if n = j then counterAt s n + BitVec.ofNat 64 k else counterAt s j := by
  unfold addCounter setCounter
  refine (mapGet_sparseSet 0 s.obs.counters n j _).trans ?_
  rw [BitVec.ofNat_add, BitVec.ofNat_toNat, BitVec.setWidth_eq]
  rfl

@[simp] theorem counterAt_bump_same (s : State) (n : Nat) : counterAt (bump s n) n = counterAt s n + 1 :=
  (counterAt_addCounter s n 1 n).trans (if_pos rfl)

theorem counterAt_addCounter_ne (s : State) (k : Nat) {n j : Nat} (h : n ≠ j) : counterAt (addCounter s n k) j = counterAt s j :=
  (counterAt_addCounter s n k j).trans (if_neg h)

theorem counterAt_bump_ne (s : State) {n j : Nat} (h : n ≠ j) : counterAt (bump s n) j = counterAt s j :=
  counterAt_addCounter_ne s 1 h

/-! ### Looms, tiles and sub-queues, read after a write -/

@[simp] theorem loomAt_setLoom (s : State) (l : Nat) (x : LoomSt) : loomAt (setLoom s l x) l = x :=
  (mapGet_sparseSet LoomSt.idle s.eng.looms l l x).trans (if_pos rfl)

@[simp] theorem loomAt_bump (s : State) (n l : Nat) : loomAt (bump s n) l = loomAt s l := rfl

@[simp] theorem subqAt_setSubq (s : State) (w : Nat) (q : List UnitId) : subqAt (setSubq s w q) w = q :=
  (mapGet_sparseSet [] s.eng.subq w w q).trans (if_pos rfl)

@[simp] theorem tileOf_setTile (s : State) (u : UnitId) (x : TileSt) : tileOf (setTile s (tileKey u) x) u = some x :=
  (mapFind_mapSet s.eng.tiles (tileKey u) (tileKey u) x).trans (if_pos rfl)

/-! ### The carters' runs -/

/-- The state with the carters out of sight. -/
def outsideCarters (s : State) : State := { s with eng := { s.eng with carters := [] } }

theorem outsideCarters_setRuns (s : State) (c slot : Nat) (rs : List Run) :
    outsideCarters (setRuns s c slot rs) = outsideCarters s := rfl

theorem outsideCarters_addRun (s : State) (c slot : Nat) (r : Run) : outsideCarters (addRun s c slot r) = outsideCarters s := by
  unfold addRun; split
  · rfl
  · exact outsideCarters_setRuns s c slot _

theorem outsideCarters_dropUnitRuns (s : State) (l : Nat) (u : UnitId) :
    outsideCarters (dropUnitRuns s l u) = outsideCarters s :=
  foldl_keeps outsideCarters (fun s k => dropRun s (feederOf l) k u.op (some u)) (fun s _ => outsideCarters_setRuns s _ _ _) [0, 1, 3] s

/-- One run or another joins a slot. -/
theorem outsideCarters_addRun_or (p : Prop) [Decidable p] (s : State) (c slot slot' : Nat) (r r' : Run) :
    outsideCarters (if p then addRun s c slot r else addRun s c slot' r') = outsideCarters s := by
  split
  · exact outsideCarters_addRun s c slot r
  · exact outsideCarters_addRun s c slot' r'

/-! ### A unit begins (R184, R190) -/

/-- The state with the tile of a unit open. -/
def withTileOpen (s : State) (u : UnitId) : State :=
  if (tileOf s u).isSome then s else setTile s (tileKey u) (TileSt.opened (timebase s))

theorem tileOf_withTileOpen (s : State) (u : UnitId) : (tileOf (withTileOpen s u) u).isSome = true := by
  unfold withTileOpen; split
  · assumption
  · simp

/-- Opening a tile changes the tiles only. -/
theorem withTileOpen_eq (s : State) (u : UnitId) : ∃ m, withTileOpen s u = { s with eng := { s.eng with tiles := m } } := by
  unfold withTileOpen; split
  · exact ⟨_, rfl⟩
  · exact ⟨_, rfl⟩

/-- The unit's first load stands in the shadow registers, and the unit is listed as taken. -/
def unitEntered (s : State) (l : Nat) (u : UnitId) (stolen : Nat) : State :=
  let s := setLoom s l { loomAt s l with shadow := some ⟨u, u.kt, u.pass, 0, 0⟩ }
  { s with eng := { s.eng with taken := s.eng.taken ++ [⟨u, l, stolen, timebase s⟩], missing := s.eng.missing.filter (· != l) } }

theorem shadow_unitEntered (s : State) (l : Nat) (u : UnitId) (stolen : Nat) :
    (loomAt (unitEntered s l u stolen) l).shadow = some ⟨u, u.kt, u.pass, 0, 0⟩ :=
  congrArg LoomSt.shadow (loomAt_setLoom s l { loomAt s l with shadow := some ⟨u, u.kt, u.pass, 0, 0⟩ })

/-- But for the feeder's runs, a unit begins by opening its tile and entering the loom. -/
theorem outsideCarters_beginUnit (s : State) (l : Nat) (u : UnitId) (stolen : Nat) :
    outsideCarters (beginUnit s l u stolen) = outsideCarters (unitEntered (withTileOpen s u) l u stolen) := by
  unfold beginUnit
  exact (outsideCarters_addRun_or _ _ _ _ _ _ _).trans (outsideCarters_addRun (unitEntered (withTileOpen s u) l u stolen) _ _ _)

/-- What holds once loom l has begun unit u in state s. -/
structure UnitBegins (s t : State) (l : Nat) (u : UnitId) (stolen : Nat) : Prop where
  shadow : (loomAt t l).shadow = some ⟨u, u.kt, u.pass, 0, 0⟩
  taken : t.eng.taken = s.eng.taken ++ [⟨u, l, stolen, timebase s⟩]
  subq : t.eng.subq = s.eng.subq
  tile : (tileOf t u).isSome = true
  clk : t.clk = s.clk
  mem : t.mem = s.mem
  step : t.step = s.step

theorem beginUnit_begins (s : State) (l : Nat) (u : UnitId) (stolen : Nat) : UnitBegins s (beginUnit s l u stolen) l u stolen := by
  have hcarters := outsideCarters_beginUnit s l u stolen
  have htile := tileOf_withTileOpen s u
  obtain ⟨m, hopen⟩ := withTileOpen_eq s u
  rw [hopen] at hcarters htile
  exact {
    shadow := (view_of_mask hcarters (fun t => (loomAt t l).shadow) fun _ => rfl).trans
      (shadow_unitEntered _ l u stolen)
    taken := view_of_mask hcarters (fun t => t.eng.taken) fun _ => rfl
    subq := view_of_mask hcarters (fun t => t.eng.subq) fun _ => rfl
    tile := (view_of_mask hcarters (fun t => (tileOf t u).isSome) fun _ => rfl).trans htile
    clk := view_of_mask hcarters State.clk fun _ => rfl
    mem := view_of_mask hcarters State.mem fun _ => rfl
    step := view_of_mask hcarters State.step fun _ => rfl }

/-! ### LOOM_TAKE_UNIT (R184, R457) -/

/-- A loom takes the unit that R184 names by beginning it where its sub-queue no longer holds it; only counters and the trace tell
how it was come by. -/
theorem takeUnit_of_nextUnit {s : State} {l v k : Nat} {u : UnitId} (h : nextUnit s l = some (u, v, k)) :
    ∃ s1, takeUnit s l = beginUnit s1 l u k ∧ behindHost s s1 = behindHost s (setSubq s v ((subqAt s v).erase u)) := by
  unfold takeUnit; rw [h]; dsimp only; split
  · exact ⟨_, rfl, rfl⟩
  · exact ⟨_, rfl, behindHost_trace s _ _ _ _ _ _⟩
  · exact ⟨_, rfl, behindHost_trace s _ _ _ _ _ _⟩

theorem noteMiss_of_nextUnit {s : State} {l : Nat} (h : (nextUnit s l).isSome = true) : noteMiss s l = s := by
  obtain ⟨x, hx⟩ := Option.isSome_iff_exists.1 h
  simp [noteMiss, hx]

theorem execLoomTakeUnit_free {l : Fin 512} {s : State} (hrun : enginesRun s = true) (hgo : paused s = false)
    (hshadow : (loomAt s l.val).shadow = none) (hon : loomOn s l.val = true) (hnext : (nextUnit s l.val).isSome = true) :
    exec (.loomTakeUnit l) s = .next (takeUnit s l.val) := by
  show execLoomTakeUnit l s = _
  simp [execLoomTakeUnit, hrun, hgo, hshadow, hon, noteMiss_of_nextUnit hnext]

theorem execLoomTakeUnit_paused (l : Fin 512) {s : State} (hpause : paused s = true) : exec (.loomTakeUnit l) s = .next s := by
  show execLoomTakeUnit l s = _
  simp [execLoomTakeUnit, hpause]

theorem takeUnit_taken {s : State} {l v k : Nat} {u : UnitId} (hnext : nextUnit s l = some (u, v, k)) :
    (loomAt (takeUnit s l) l).shadow = some ⟨u, u.kt, u.pass, 0, 0⟩ ∧
      (takeUnit s l).eng.taken = s.eng.taken ++ [⟨u, l, k, timebase s⟩] ∧
      subqAt (takeUnit s l) v = (subqAt s v).erase u ∧ (tileOf (takeUnit s l) u).isSome = true ∧ (takeUnit s l).mem = s.mem ∧
      (takeUnit s l).step.ops = s.step.ops := by
  obtain ⟨s1, htake, hhost⟩ := takeUnit_of_nextUnit hnext
  have begins := beginUnit_begins s1 l u k
  have heng : s1.eng = (setSubq s v ((subqAt s v).erase u)).eng := view_of_mask hhost State.eng fun _ => rfl
  have htime : timebase s1 = timebase s := view_of_mask hhost timebase fun _ => rfl
  have hmem : s1.mem = s.mem := view_of_mask hhost State.mem fun _ => rfl
  have hstep : s1.step = s.step := view_of_mask hhost State.step fun _ => rfl
  rw [htake]
  refine ⟨begins.shadow, ?_, ?_, begins.tile, begins.mem.trans hmem, by rw [begins.step, hstep]⟩
  · rw [begins.taken, heng, htime]; rfl
  · rw [subqAt, begins.subq, heng]
    exact subqAt_setSubq s v _

/-! ### LOAD_WAVEFRONT (R100) -/

theorem loadWavefront_of_ready {s : State} {l : Nat} {ld : LoadSt} (hshadow : (loomAt s l).shadow = some ld) (hroom : ld.waves < 16)
    (hready : wavefrontReady s l ld ld.waves = true) :
    loadWavefront s l = setLoom s l { loomAt s l with shadow := some { ld with waves := ld.waves + 1 } } := by
  simp [loadWavefront, hshadow, hroom, hready]

/-! ### The end of streaming (R98, R101, R190) -/

/-- The state with the carters, the open tiles, and the lists of units taken and of looms without one out of sight. -/
def outsideUnits (s : State) : State := { s with eng := { s.eng with carters := [], tiles := [], taken := [], missing := [] } }

theorem outsideUnits_of_outsideCarters {s t : State} (h : outsideCarters s = outsideCarters t) : outsideUnits s = outsideUnits t :=
  view_of_mask h outsideUnits fun _ => rfl

theorem loomAt_of_outsideUnits {s t : State} (h : outsideUnits s = outsideUnits t) (l : Nat) : loomAt s l = loomAt t l :=
  view_of_mask h (loomAt · l) fun _ => rfl

theorem outsideUnits_noteMiss (s : State) (l : Nat) : outsideUnits (noteMiss s l) = outsideUnits s := by
  unfold noteMiss; dsimp only; split <;> rfl

theorem outsideUnits_keepInputs (s : State) (l : Nat) (u : UnitId) : outsideUnits (keepInputs s l u) = outsideUnits s := by
  unfold keepInputs; split
  · split <;> rfl
  · rfl

theorem outsideUnits_unitDone (s : State) (l : Nat) (u : UnitId) : outsideUnits (unitDone s l u) = outsideUnits (bump s (0x200 + l)) :=
  (outsideUnits_of_outsideCarters (outsideCarters_dropUnitRuns _ l u)).trans (outsideUnits_keepInputs _ l u)

theorem settle_of_idle {s : State} {l : Nat} (h : (loomAt s l).active = none) : settle s l = s := by
  simp [settle, h]

theorem settle_of_streaming {s : State} {l : Nat} {ld : LoadSt} (hactive : (loomAt s l).active = some ld)
    (h : streamed s l ld = false) : settle s l = s := by
  simp [settle, hactive, h]

/-- Streaming goes on, or the loom's active load is over; with the unit's last load the unit is counted as done. -/
theorem settle_cases (s : State) (l : Nat) :
    settle s l = s ∨ ∃ x : LoomSt, x.active = none ∧ (outsideUnits (settle s l) = outsideUnits (setLoom s l x) ∨
      outsideUnits (settle s l) = outsideUnits (bump (setLoom s l x) (0x200 + l))) := by
  unfold settle; dsimp only; split
  · exact .inl rfl
  · split
    · exact .inl rfl
    · split
      · exact .inr ⟨endLoad (loomAt s l), rfl, .inl rfl⟩
      · split
        · refine .inr ⟨{ endLoad (loomAt s l) with parts := [] }, rfl, ?_⟩
          split
          · exact .inr ((outsideUnits_noteMiss _ l).trans (outsideUnits_unitDone _ l _))
          · exact .inl rfl
        · split
          · exact .inl rfl
          · exact .inr ⟨_, rfl, .inr ((outsideUnits_noteMiss _ l).trans (outsideUnits_unitDone _ l _))⟩

/-- The end of streaming leaves the memories, and the counters below those of units done (R497). -/
theorem settle_keeps (s : State) (l : Nat) :
    (settle s l).mem = s.mem ∧ ∀ n < 0x200, counterAt (settle s l) n = counterAt s n := by
  rcases settle_cases s l with h | ⟨x, _, h | h⟩
  · rw [h]; exact ⟨rfl, fun _ _ => rfl⟩
  · exact ⟨view_of_mask h State.mem fun _ => rfl, fun n _ => view_of_mask h (counterAt · n) fun _ => rfl⟩
  · refine ⟨view_of_mask h State.mem fun _ => rfl, fun n hn => ?_⟩
    exact (view_of_mask h (counterAt · n) fun _ => rfl).trans (counterAt_bump_ne (setLoom s l x) (by omega))

/-- A loom whose load is still active after settling has not been touched by it. -/
theorem settle_of_active {s : State} {l : Nat} {ld : LoadSt} (h : (loomAt (settle s l) l).active = some ld) : settle s l = s := by
  rcases settle_cases s l with hs | ⟨x, hx, hends⟩
  · exact hs
  · have hidle : (loomAt (settle s l) l).active = none := by
      rcases hends with he | he
      · rw [loomAt_of_outsideUnits he, loomAt_setLoom, hx]
      · rw [loomAt_of_outsideUnits he, loomAt_bump, loomAt_setLoom, hx]
    rw [hidle] at h
    cases h

/-! ### SHADOW_SWAP (R101) -/

/-- The state with a complete shadow load swapped in. -/
def loadSwapped (s : State) (l : Nat) (ld : LoadSt) : State :=
  setLoom s l { loomAt s l with
    active := some ld, cells := [], loadWait := false, shadow := followingLoad (unitEntry s ld.unit) ld }

theorem shadowSwap_of_loaded {s : State} {l : Nat} {ld : LoadSt} (hshadow : (loomAt s l).shadow = some ld)
    (hidle : (loomAt s l).active = none) (hloaded : ld.waves = 16) : shadowSwap s l = settle (loadSwapped s l ld) l := by
  simp [shadowSwap, hshadow, hidle, hloaded, loadSwapped]

/-! ### CELL_HANDSHAKE (R51, R55, R67) -/

/-- What lets cell (r, c) take its token n of vector v of the active load (R51, R60, R103, R104). -/
structure CellMoves (s : State) (l : Nat) (ld : LoadSt) (r c v n : Nat) : Prop where
  active : (loomAt s l).active = some ld
  place : cellPlace s l ld r c = (v, n)
  col : colActive s ld.unit c = true
  row : rowActive (unitEntry s ld.unit) ld.kt ld.load r = true
  vec : v < unitVecs s ld.unit
  here : vectorHere s l ld v = true
  above : opLmode (unitEntry s ld.unit) = true → aboveDone s l ld v r c = true
  skew : skewOk s l ld v = true

/-- The loom once cell (r, c) has taken that token: the cell's place and the column's partial. -/
def movedLoom (s : State) (l : Nat) (ld : LoadSt) (r c v n : Nat) : LoomSt :=
  { loomAt s l with
    cells := mapSet (loomAt s l).cells (64 * r + c) (if tokens s l ld v r ≤ n + 1 then 8 * (v + 1) else 8 * v + n + 1)
    parts := mapSet (loomAt s l).parts (64 * v + c) (if tokens s l ld v r ≤ n + 1 then foldRow s l ld v r c else partOf s l ld v c) }

/-- The state once the handshake is counted, streaming not yet settled. -/
def cellMoved (s : State) (l : Nat) (ld : LoadSt) (r c v n : Nat) : State :=
  countEvents (bump (setLoom s l (movedLoom s l ld r c v n)) l) (if opLmode (unitEntry s ld.unit) then 0 else 1) (workshopOf l) 1

theorem cellHandshake_of_moves {s : State} {l r c v n : Nat} {ld : LoadSt} (h : CellMoves s l ld r c v n) :
    cellHandshake s l r c = settle (cellMoved s l ld r c v n) l := by
  obtain ⟨hactive, hplace, hcol, hrow, hvec, hhere, habove, hskew⟩ := h
  have hgoes : (!colActive s ld.unit c || !rowActive (unitEntry s ld.unit) ld.kt ld.load r || decide (unitVecs s ld.unit ≤ v) ||
      !vectorHere s l ld v || (opLmode (unitEntry s ld.unit) && !aboveDone s l ld v r c) || !skewOk s l ld v) = false := by
    simpa [hcol, hrow, hvec, hhere, hskew] using habove
  simp only [cellHandshake, hactive, hplace, hgoes, cellMoved, movedLoom, decide_eq_true_eq, Bool.false_eq_true, if_false]

theorem counterAt_cellMoved (s : State) (l : Nat) (ld : LoadSt) (r c v n : Nat) :
    counterAt (cellMoved s l ld r c v n) l = counterAt s l + 1 := counterAt_bump_same (setLoom s l _) l

theorem loomAt_cellMoved (s : State) (l : Nat) (ld : LoadSt) (r c v n : Nat) :
    loomAt (cellMoved s l ld r c v n) l = movedLoom s l ld r c v n := loomAt_setLoom s l _

/-- A handshake is counted and moves its cell, and what follows at once leaves that while the load stays active. -/
theorem cellHandshake_moves {s : State} {l r c v n : Nat} {ld : LoadSt} (hl : l < 0x200) (h : CellMoves s l ld r c v n) :
    counterAt (cellHandshake s l r c) l = counterAt s l + 1 ∧ (cellHandshake s l r c).mem = s.mem ∧
      ((loomAt (cellHandshake s l r c) l).active = some ld →
        mapGet (loomAt (cellHandshake s l r c) l).cells (64 * r + c) 0 =
            (if tokens s l ld v r ≤ n + 1 then 8 * (v + 1) else 8 * v + n + 1) ∧
          mapFind (loomAt (cellHandshake s l r c) l).parts (64 * v + c) =
            some (if tokens s l ld v r ≤ n + 1 then foldRow s l ld v r c else partOf s l ld v c)) := by
  rw [cellHandshake_of_moves h]
  obtain ⟨hmem, hcounters⟩ := settle_keeps (cellMoved s l ld r c v n) l
  refine ⟨(hcounters l hl).trans (counterAt_cellMoved s l ld r c v n), hmem, fun hactive => ?_⟩
  rw [settle_of_active hactive, loomAt_cellMoved]
  simp [movedLoom, mapGet, mapFind_mapSet]

/-! ### PARTIAL_ARRIVAL (R188, R190, R192) -/

/-- The ring stall of a stolen unit takes a free value and counts for the thief's workshop (R186). -/
theorem ringStall_cases (s : State) (l : Nat) (u : UnitId) :
    ringStall s l u = s ∨ ∃ c d, ringStall s l u = addCounter { s with freeCtr := c } (0xB80 + workshopOf l) d := by
  unfold ringStall; split
  · exact .inr ⟨_, _, rfl⟩
  · exact .inl rfl

@[simp] theorem ringStall_eng (s : State) (l : Nat) (u : UnitId) : (ringStall s l u).eng = s.eng := by
  rcases ringStall_cases s l u with h | ⟨c, d, h⟩
  · rw [h]
  · rw [h]; rfl

@[simp] theorem ringStall_mem (s : State) (l : Nat) (u : UnitId) : (ringStall s l u).mem = s.mem := by
  rcases ringStall_cases s l u with h | ⟨c, d, h⟩
  · rw [h]
  · rw [h]; rfl

theorem counterAt_ringStall (s : State) (l : Nat) (u : UnitId) {n : Nat} (h : 0xB80 + workshopOf l < n) :
    counterAt (ringStall s l u) n = counterAt s n := by
  rcases ringStall_cases s l u with hs | ⟨c, d, hs⟩
  · rw [hs]
  · rw [hs]
    exact counterAt_addCounter_ne { s with freeCtr := c } d (by omega)

/-- The loom has handed its finished partials to the combiner. -/
def handedOver (s : State) (l : Nat) (u : UnitId) : State :=
  setLoom (ringStall s l u) l { loomAt s l with out := none, foldWait := false }

/-- The state with a unit's next partials folded into its tile, and no copy of the unit under way. -/
def partialFolded (s : State) (l : Nat) (u : UnitId) (ps : List (Nat × Part)) (x : TileSt) : State :=
  let t := setTile (handedOver s l u) (tileKey u)
    { x with acc := foldParts (opLmode (unitEntry s u)) x.acc ps, next := x.next + 1, since := timebase s }
  { t with eng := { t.eng with taken := t.eng.taken.filter fun k => k.unit != u } }

/-- The state with a partial discarded as a duplicate. -/
def partialDiscarded (s : State) (l : Nat) (u : UnitId) : State := bump (handedOver s l u) (0xE00 + guildOf (unitHome s u))

theorem loomAt_handedOver (s : State) (l : Nat) (u : UnitId) :
    loomAt (handedOver s l u) l = { loomAt s l with out := none, foldWait := false } := loomAt_setLoom _ l _

section
variable {s : State} {l : Nat} {u : UnitId} {ps : List (Nat × Part)} {x : TileSt}

theorem partialArrives_of_next (hout : (loomAt s l).out = some (u, ps)) (hidle : (loomAt s l).active = none)
    (htile : tileOf s u = some x) (hord : unitOrd s u = x.next) (hheld : x.held = []) :
    partialArrives s l = partialFolded s l u ps x := by
  have hsettle : settle (partialFolded s l u ps x) l = partialFolded s l u ps x :=
    settle_of_idle ((congrArg LoomSt.active (loomAt_handedOver s l u)).trans hidle)
  rw [← hsettle]
  simp [partialArrives, hout, htile, hord, hheld, mapFind, releaseHeld, partialFolded, handedOver]

theorem partialArrives_of_folded (hout : (loomAt s l).out = some (u, ps)) (hidle : (loomAt s l).active = none)
    (htile : tileOf s u = some x) (hord : unitOrd s u < x.next) : partialArrives s l = partialDiscarded s l u := by
  have hsettle : settle (partialDiscarded s l u) l = partialDiscarded s l u :=
    settle_of_idle ((congrArg LoomSt.active (loomAt_handedOver s l u)).trans hidle)
  rw [← hsettle]
  simp [partialArrives, hout, htile, hord, partialDiscarded, handedOver]

end

theorem partialFolded_fields (s : State) (l : Nat) (u : UnitId) (ps : List (Nat × Part)) (x : TileSt) :
    (loomAt (partialFolded s l u ps x) l).out = none ∧ tileOf (partialFolded s l u ps x) u =
        some { x with acc := foldParts (opLmode (unitEntry s u)) x.acc ps, next := x.next + 1, since := timebase s } ∧
      (∀ k ∈ (partialFolded s l u ps x).eng.taken, k.unit ≠ u) ∧ (partialFolded s l u ps x).mem = s.mem := by
  refine ⟨congrArg LoomSt.out (loomAt_handedOver s l u), tileOf_setTile (handedOver s l u) u _, fun k hk => ?_, ringStall_mem s l u⟩
  simpa using (List.mem_filter.1 hk).2

/-- A discarded partial leaves the tiles and counts once for its home guild, whose counter no ring stall shares. -/
theorem partialDiscarded_fields (s : State) {l : Nat} (hl : l < 512) (u : UnitId) :
    (loomAt (partialDiscarded s l u) l).out = none ∧ (partialDiscarded s l u).eng.tiles = s.eng.tiles ∧
      counterAt (partialDiscarded s l u) (0xE00 + guildOf (unitHome s u)) = counterAt s (0xE00 + guildOf (unitHome s u)) + 1 := by
  refine ⟨congrArg LoomSt.out (loomAt_handedOver s l u), ?_, ?_⟩
  · show (ringStall s l u).eng.tiles = s.eng.tiles
    rw [ringStall_eng]
  · refine (counterAt_bump_same (handedOver s l u) _).trans (congrArg (· + 1) ?_)
    exact counterAt_ringStall s l u (by unfold workshopOf; omega)

/-! ### Time that passes (R442) -/

/-- The clock and the memories. -/
def clockAndMemory (s : State) : ClockSt × MemSt := (s.clk, s.mem)

theorem clockAndMemory_ite {p : Prop} [Decidable p] {s t : State} (h : clockAndMemory t = clockAndMemory s) :
    clockAndMemory (if p then t else s) = clockAndMemory s := by
  split
  · exact h
  · rfl

theorem clockAndMemory_bump (s : State) (n : Nat) : clockAndMemory (bump s n) = clockAndMemory s := rfl

theorem clockAndMemory_addCounter_if (p : Prop) [Decidable p] (s : State) (n k : Nat) :
    clockAndMemory (if p then addCounter s n k else s) = clockAndMemory s := clockAndMemory_ite rfl

/-- Counted idle time leaves the clock and the memories (R344). -/
theorem clockAndMemory_countIdle (s : State) (d : Nat) : clockAndMemory (countIdle s d) = clockAndMemory s := by
  unfold countIdle
  refine foldl_keeps clockAndMemory _ (fun s l => ?_) _ s
  exact (clockAndMemory_addCounter_if _ _ _ _).trans ((clockAndMemory_addCounter_if _ _ _ _).trans (clockAndMemory_addCounter_if _ _ _ _))

theorem clockAndMemory_elapse (s : State) (d : Nat) : clockAndMemory (elapse s d) = clockAndMemory s := by
  unfold elapse
  exact (clockAndMemory_addCounter_if _ _ _ _).trans ((clockAndMemory_addCounter_if _ _ _ _).trans
    (clockAndMemory_ite (clockAndMemory_countIdle s d)))

theorem clockTo_clk (s : State) (n : Nat) : (clockTo s n).clk = { s.clk with periods := n } :=
  congrArg Prod.fst (clockAndMemory_elapse { s with clk := { s.clk with periods := n } } _)

theorem clockTo_mem (s : State) (n : Nat) : (clockTo s n).mem = s.mem :=
  congrArg Prod.snd (clockAndMemory_elapse { s with clk := { s.clk with periods := n } } _)

theorem advanceTo_mem (s : State) (t : Nat) : (advanceTo s t).mem = s.mem := by
  unfold advanceTo; split
  · exact clockTo_mem s _
  · rfl

/-- A running clock reaches the time it is to advance to. -/
theorem le_timebase_advanceTo {s : State} (hclk : s.clk.running = true) (t : Nat) : t ≤ timebase (advanceTo s t) := by
  unfold advanceTo
  by_cases hlt : timebase s < t
  · rw [if_pos (by simp [hclk, hlt]), timebase, clockTo_clk]
    simp only [ceilDiv]
    omega
  · rw [if_neg (by simp [hlt])]
    omega

/-! ### RECLAIM_WINDOW_EXPIRY (R191) -/

/-- The thief's copy is cancelled where its first load still stands in the shadow registers; clock and memories stay. -/
theorem reclaim_begins {s : State} {l : Nat} {k : TakenUnit} {x : TileSt} (h : reclaimable s l = some (k, x)) :
    ∃ s1, reclaim s l = beginUnit s1 l k.unit 0 ∧
      clockAndMemory s1 = clockAndMemory (advanceTo s (x.since + reclaimNs s)) := by
  unfold reclaim; rw [h]; dsimp only
  refine ⟨_, rfl, ?_⟩
  rw [clockAndMemory_bump]
  exact clockAndMemory_ite <| (view_of_mask (outsideUnits_noteMiss _ _) clockAndMemory fun _ => rfl).trans
    (view_of_mask (outsideCarters_dropUnitRuns _ _ _) clockAndMemory fun _ => rfl)

theorem reclaim_reclaimed {s : State} {l : Nat} {k : TakenUnit} {x : TileSt} (h : reclaimable s l = some (k, x))
    (hclk : s.clk.running = true) :
    (loomAt (reclaim s l) l).shadow = some ⟨k.unit, k.unit.kt, k.unit.pass, 0, 0⟩ ∧
      ⟨k.unit, l, 0, timebase (reclaim s l)⟩ ∈ (reclaim s l).eng.taken ∧ x.since + reclaimNs s ≤ timebase (reclaim s l) ∧
      (reclaim s l).mem = s.mem := by
  obtain ⟨s1, hreclaim, hkept⟩ := reclaim_begins h
  obtain ⟨hclk1, hmem1⟩ := Prod.mk.inj hkept
  have begins := beginUnit_begins s1 l k.unit 0
  have htime : timebase (beginUnit s1 l k.unit 0) = timebase s1 := congrArg (·.periods * 625 / 24) begins.clk
  have htime1 : timebase s1 = timebase (advanceTo s (x.since + reclaimNs s)) := congrArg (·.periods * 625 / 24) hclk1
  rw [hreclaim]
  refine ⟨begins.shadow, ?_, ?_, begins.mem.trans (hmem1.trans (advanceTo_mem s _))⟩
  · rw [begins.taken, htime]
    exact List.mem_append_right _ (List.mem_singleton.2 rfl)
  · rw [htime, htime1]
    exact le_timebase_advanceTo hclk _

/-! ### The rows -/

theorem execLoadWavefront_runs {l : Fin 512} {s : State} (hrun : enginesRun s = true) :
    exec (.loadWavefront l) s = .next (loadWavefront s l.val) := congrArg Host.Outcome.next (if_pos hrun)

theorem execShadowSwap_runs {l : Fin 512} {s : State} (hrun : enginesRun s = true) :
    exec (.shadowSwap l) s = .next (shadowSwap s l.val) := congrArg Host.Outcome.next (if_pos hrun)

theorem execCellHandshake_runs {l : Fin 512} {row col : Fin 64} {s : State} (hrun : enginesRun s = true) :
    exec (.cellHandshake l row col) s = .next (cellHandshake s l.val row.val col.val) := congrArg Host.Outcome.next (if_pos hrun)

theorem execPartialArrival_runs {l : Fin 512} {s : State} (hrun : enginesRun s = true) :
    exec (.partialArrival l) s = .next (partialArrives s l.val) := congrArg Host.Outcome.next (if_pos hrun)

theorem execReclaimWindowExpiry_free {l : Fin 512} {s : State} (hrun : enginesRun s = true)
    (hshadow : (loomAt s l.val).shadow = none) (hactive : (loomAt s l.val).active = none) (hon : loomOn s l.val = true) :
    exec (.reclaimWindowExpiry l) s = .next (reclaim s l.val) :=
  congrArg Host.Outcome.next (if_pos (by simp [hrun, hshadow, hactive, hon]))

/-- Settles O50. A unit taken or reclaimed begins by one operation (`beginUnit_begins`); a swap, a handshake and an arrival end with the
same settling, which does nothing while the load streams or the loom is idle (`settle_of_streaming`, `settle_of_active`,
`settle_of_idle`); a handshake and a discarded partial are counted once, apart from the counters of units done and of ring stalls. -/
theorem loomsWork : Obligations.LoomsWork := by
  intro l row col s hrun
  refine ⟨?take, execLoomTakeUnit_paused l, ?load, ?swap, ?cell, ?arrival, ?reclaim⟩
  case take =>
    intro u v k hgo hshadow hon hnext
    exact ⟨_, execLoomTakeUnit_free hrun hgo hshadow hon (by simp [hnext]), takeUnit_taken hnext⟩
  case load =>
    intro ld hshadow hroom hready
    rw [execLoadWavefront_runs hrun, loadWavefront_of_ready hshadow hroom hready]
  case swap =>
    intro ld t0 hshadow hidle hloaded ht0 hstreaming
    have hactive : (loomAt t0 l.val).active = some ld := by rw [ht0, loomAt_setLoom]
    rw [execShadowSwap_runs hrun, shadowSwap_of_loaded hshadow hidle hloaded, loadSwapped, ← ht0, settle_of_streaming hactive hstreaming]
  case cell =>
    intro ld v n hactive hplace hcol hrow hvec hhere habove hskew
    exact ⟨_, execCellHandshake_runs hrun,
      cellHandshake_moves l.isLt ⟨hactive, hplace, hcol, hrow, hvec, hhere, habove, hskew⟩⟩
  case arrival =>
    intro u ps x hout hidle htile
    refine ⟨fun hord hheld => ⟨_, execPartialArrival_runs hrun, ?_⟩, fun hord => ⟨_, execPartialArrival_runs hrun, ?_⟩⟩
    · rw [partialArrives_of_next hout hidle htile hord hheld]
      exact partialFolded_fields s l.val u ps x
    · rw [partialArrives_of_folded hout hidle htile hord]
      exact partialDiscarded_fields s l.isLt u
  case reclaim =>
    intro k x hshadow hactive hon hreclaimable hclk
    exact ⟨_, execReclaimWindowExpiry_free hrun hshadow hactive hon, reclaim_reclaimed hreclaimable hclk⟩

end Sys2Proof.Machine
end

section
/-! O51: an element of the output stage, and one of the vector unit. Beside its tile or its lane an element changes only figures,
memories and records; the end of its operation then lists the operation as completed and drops its tiles. -/

namespace Sys2Proof.Machine

/-! ### What the work of an element leaves alone -/

/-- What the work of an element must not disturb, beyond its own tile, lane and operation. -/
structure WorkView where
  fuses : FuseSt
  /-- The stage of each operation of the step. -/
  ops   : List (Nat × Nat)
  /-- The open tiles. -/
  tiles : List (Nat × TileSt)
  /-- The elements done on each lane. -/
  lanes : List (Nat × Nat)

/-- These things as a state holds them. -/
def workView (s : State) : WorkView := ⟨s.fuses, s.step.ops, s.eng.tiles, s.eng.lanes⟩

/-- Either branch of a choice keeps what both keep. -/
theorem keeps_ite {σ γ : Type} {view : σ → γ} {c : Prop} [Decidable c] {s t u : σ} (ht : view t = view s) (hu : view u = view s) :
    view (if c then t else u) = view s := by
  split
  · exact ht
  · exact hu

theorem keeps_then {σ γ : Type} {view : σ → γ} {c : Prop} [Decidable c] {s t : σ} (h : view t = view s) :
    view (if c then t else s) = view s := keeps_ite h rfl

theorem keeps_else {σ γ : Type} {view : σ → γ} {c : Prop} [Decidable c] {s t : σ} (h : view t = view s) :
    view (if c then s else t) = view s := keeps_ite rfl h

/-- A choice between two states with results. -/
theorem workView_fst_ite {α : Type} {c : Prop} [Decidable c] {s : State} {x y : State × α} (hx : workView x.1 = workView s)
    (hy : workView y.1 = workView s) : workView (if c then x else y).1 = workView s := by
  split
  · exact hx
  · exact hy

theorem workView_of_behindMemory {r s t : State} (h : behindMemory r s = behindMemory r t) : workView s = workView t :=
  view_of_mask h workView fun _ => rfl

theorem workView_of_outsideCarters {s t : State} (h : outsideCarters s = outsideCarters t) : workView s = workView t :=
  view_of_mask h workView fun _ => rfl

theorem workView_trace (s : State) (a b c d e : Nat) : workView (trace s a b c d e) = workView s :=
  workView_of_behindMemory (behindMemory_trace s s a b c d e)

theorem workView_raise (s : State) (e : EventArgs) (h : e.nmi = false) : workView (raise s e) = workView s :=
  workView_of_behindMemory (behindMemory_raise s s e h)

theorem workView_countEvents (s : State) (cls unit k : Nat) : workView (countEvents s cls unit k) = workView s := rfl

theorem workView_draw (s : State) (unit cls : Nat) : workView (draw s unit cls).1 = workView s := rfl

theorem workView_freeBelow (s : State) (n : Nat) : workView (freeBelow s n).1 = workView s := rfl

theorem workView_setOpRun (s : State) (op : Nat) (r : OpRun) : workView (setOpRun s op r) = workView s := rfl

theorem workView_ledgerFlags (s : State) (flags strict : Nat) : workView (ledgerFlags s flags strict) = workView s := rfl

theorem workView_updRun (s : State) (c slot op : Nat) (u : Option UnitId) (f : Run → Run) :
    workView (updRun s c slot op u f) = workView s := workView_of_outsideCarters (outsideCarters_setRuns s c slot _)

/-! ### The Assayer's figures (R116, R130) -/

theorem workView_setLayerStat (s : State) (l : Nat) (x : LayerStat) : workView (setLayerStat s l x) = workView s := rfl

theorem workView_gather1 (s : State) (h : Nat) (v : Dy) (block channel : Option Nat) (flushed : Bool) :
    workView (gather1 s h v block channel flushed) = workView s := by
  unfold gather1
  exact keeps_then rfl

theorem workView_addFlush (s : State) (l which k : Nat) : workView (addFlush s l which k) = workView s := by
  unfold addFlush
  exact keeps_else (workView_setLayerStat s l _)

theorem workView_addSat (s : State) (l k : Nat) : workView (addSat s l k) = workView s := by
  unfold addSat
  exact keeps_else (workView_setLayerStat s l _)

theorem workView_flushInput (s : State) (h k : Nat) : workView (flushInput s h k) = workView s := by
  unfold flushInput
  refine keeps_else (foldl_keeps workView _ (fun s l => ?_) _ s)
  exact keeps_ite (workView_addFlush s _ 0 k) (keeps_ite (workView_addFlush s _ 1 k) (keeps_then (workView_addFlush s _ 2 k)))

theorem workView_scaleSat (s : State) (h : Nat) : workView (scaleSat s h) = workView s := by
  unfold scaleSat
  exact keeps_else (foldl_keeps workView _ (fun s l => keeps_then (workView_addSat s _ 1)) _ s)

/-! ### Reads, writes and faults (R174, R223 to R227) -/

theorem workView_countLines (s : State) (a n : Nat) : workView (countLines s a n) = workView s := by
  unfold countLines
  exact keeps_else (keeps_ite rfl (keeps_ite rfl rfl))

theorem behindMemory_loadWord (r s : State) (a n : Nat) : behindMemory r (loadWord s a n).1 = behindMemory r s := by
  unfold loadWord; split
  · rfl
  · have htrans := behindMemory_translate r s a
    rcases ht : translate s a with ⟨s1, _ | ⟨_, e, p⟩⟩ <;> rw [ht] at htrans
    · exact htrans
    · exact (behindMemory_readMem r s1 _ 0).trans htrans

theorem behindMemory_loadWords (r s : State) (fuel a n : Nat) : behindMemory r (loadWords fuel s a n).1 = behindMemory r s := by
  induction fuel generalizing s a n with
  | zero => rfl
  | succ fuel ih =>
    unfold loadWords; split
    · rfl
    · exact (ih _ _ _).trans (behindMemory_loadWord r s a _)

theorem workView_loadSpan (s : State) (a n : Nat) : workView (loadSpan s a n).1 = workView s :=
  workView_of_behindMemory (behindMemory_loadWords s s (n + 1) a n)

theorem behindMemory_storePiece (r s : State) (k : Nat) (w : WordPiece) (tag : Nat) :
    behindMemory r (storePiece s k w tag).1 = behindMemory r s := by
  unfold storePiece; dsimp only; split
  · split
    · exact behindMemory_hostPut r s _ _
    · rfl
  · have htrans := behindMemory_translate r s (16 * k)
    rcases ht : translate s (16 * k) with ⟨s1, _ | ⟨_, e, p⟩⟩ <;> rw [ht] at htrans
    · exact htrans
    · have hbefore := (behindMemory_beforeWrite r s1 (16 * k) e).trans htrans
      dsimp only; split
      · exact (behindMemory_writeWord r _ _ _ _ _).trans hbefore
      · exact (behindMemory_writeWord r _ _ _ _ _).trans ((behindMemory_readMem r _ p 2).trans hbefore)

theorem workView_storeBits (s : State) (xs : List BitPiece) : workView (storeBits s xs).1 = workView s :=
  workView_of_behindMemory (r := s) <|
    foldl_keeps (fun acc : State × List Nat => behindMemory s acc.1) _
      (fun acc kw => behindMemory_storePiece s acc.1 kw.1 kw.2 _) _ (s, [])

theorem workView_raiseFault (s : State) (a : FaultArgs) (r : BitVec 256) : workView (raiseFault s a r) = workView s := by
  unfold raiseFault
  refine keeps_else ((workView_raise _ _ rfl).trans ?_)
  exact keeps_ite rfl rfl

/-- A fault changes the step's log and marks, and the host interface (R225, R227). -/
theorem workView_logFault (s : State) (a : FaultArgs) (prev next : Bool) : workView (logFault s a prev next) = workView s := by
  unfold logFault; dsimp only; split
  · rfl
  · rfl
  · rfl
  · split
    · rfl
    · unfold logFault.add
      refine (workView_raiseFault _ _ _).trans ((workView_trace _ _ _ _ _ _).trans ?_)
      exact keeps_ite rfl rfl

theorem workView_vecFault (s : State) (op w i kind addr : Nat) : workView (vecFault s op w i kind addr) = workView s :=
  workView_logFault s _ true false

/-! ### An operation completes (R179, R267, R341) -/

/-- The view with operation op completed and its tiles gone. -/
def WorkView.complete (v : WorkView) (op : Nat) : WorkView :=
  { v with ops := mapSet v.ops op 2, tiles := v.tiles.filter fun t => (keyUnit t.1).op != op }

theorem workView_sendFrame (s : State) (a : FrameArgs) : workView (sendFrame s a) = workView s := by
  unfold sendFrame enqueue; split
  · rfl
  · split <;> rfl

theorem workView_releaseSlots (s : State) (e : Entry) : workView (releaseSlots s e) = workView s := by
  unfold releaseSlots
  refine foldl_keeps workView _ (fun s q => ?_) _ s
  exact keeps_then (keeps_ite rfl (workView_sendFrame _ _))

theorem workView_keepGather (s : State) (e : Entry) : workView (keepGather s e) = workView s := by
  unfold keepGather
  exact keeps_then rfl

theorem workView_localNorm (s : State) (l : SteerLayer) (grad : Bool) : workView (localNorm s l grad) = workView s := by
  unfold localNorm; dsimp only
  exact keeps_else (keeps_ite rfl (keeps_ite rfl (keeps_ite rfl (workView_raise _ _ rfl))))

theorem workView_normTests (s : State) (e : Entry) : workView (normTests s e) = workView s := by
  unfold normTests
  refine foldl_keeps workView _ (fun s l => ?_) _ s
  exact (keeps_then (workView_localNorm _ l true)).trans (keeps_then (workView_localNorm s l false))

theorem workView_tryMillPhase (s : State) : workView (tryMillPhase s) = workView s := by
  rcases tryMillPhase_cases s with h | ⟨v, p, _, h⟩
  · rw [h]
  · exact view_of_mask h workView fun _ => rfl

theorem workView_completeOp (s : State) (op : Nat) : workView (completeOp s op) = (workView s).complete op := by
  unfold completeOp; dsimp only
  refine (workView_tryMillPhase _).trans ((workView_normTests _ _).trans ((workView_keepGather _ _).trans
    ((workView_releaseSlots _ _).trans ?_)))
  exact congrArg (WorkView.complete · op) (workView_trace s 3 1 op s.step.plan (opRun s op).tiles)

theorem completeOp_fuses (s : State) (op : Nat) : (completeOp s op).fuses = s.fuses := congrArg WorkView.fuses (workView_completeOp s op)

theorem completeOp_completed (s : State) (op : Nat) : mapGet (completeOp s op).step.ops op 0 = 2 := by
  have hops : (completeOp s op).step.ops = mapSet s.step.ops op 2 := congrArg WorkView.ops (workView_completeOp s op)
  simp [hops, mapGet, mapFind_mapSet]

theorem completeOp_tiles (s : State) (op : Nat) :
    (completeOp s op).eng.tiles = s.eng.tiles.filter fun t => (keyUnit t.1).op != op := congrArg WorkView.tiles (workView_completeOp s op)

theorem tryCompleteLoom_cases (s : State) (op : Nat) : tryCompleteLoom s op = s ∨ tryCompleteLoom s op = completeOp s op := by
  unfold tryCompleteLoom; split
  · exact .inr rfl
  · exact .inl rfl

theorem mapFind_filter_of_none {α : Type} (m : List (Nat × α)) (p : Nat × α → Bool) (k : Nat) (h : mapFind m k = none) :
    mapFind (m.filter p) k = none := by
  induction m with
  | nil => rfl
  | cons e m ih =>
    obtain ⟨j, v⟩ := e
    by_cases hj : j = k
    · simp [mapFind, hj] at h
    · simp only [mapFind, if_neg hj] at h
      by_cases hp : p (j, v) = true
      · simp [hp, mapFind, hj, ih h]
      · simp [hp, ih h]

/-- A tile that is not open is not opened by the end of an operation. -/
theorem tileOf_tryCompleteLoom (s : State) (op : Nat) (u : UnitId) (h : tileOf s u = none) : tileOf (tryCompleteLoom s op) u = none := by
  rcases tryCompleteLoom_cases s op with hs | hs
  · rw [hs, h]
  · rw [hs, tileOf, completeOp_tiles]
    exact mapFind_filter_of_none s.eng.tiles _ _ h

/-! ### An element of the output stage (R111 to R118) -/

theorem workView_readBias (s : State) (op t v c : Nat) : workView (readBias s op t v c).1 = workView s := by
  unfold readBias
  exact keeps_then (workView_flushInput s _ 1)

theorem workView_reportElem (s : State) (op t : Nat) (o : OutElem) (accSat : Bool) :
    workView (reportElem s op t o accSat) = workView s := by
  unfold reportElem; dsimp only
  refine (keeps_else ((workView_addSat _ _ _).trans (workView_addFlush _ _ _ _))).trans ?_
  split
  · exact (keeps_ite rfl (workView_setLayerStat _ _ _)).trans (workView_gather1 s _ _ _ _ _)
  · rfl

theorem workView_outputElement (s : State) (op t n : Nat) : workView (outputElement s op t n).1 = workView s := by
  unfold outputElement
  extract_lets e cols v c home a
  generalize hdraw : (if ePurpose e = 2 then draw s _ 0 else (s, 0)) = d
  have hd : workView d.1 = workView s := hdraw ▸ workView_fst_ite (workView_draw s _ 0) rfl
  obtain ⟨s1, u⟩ := d
  dsimp -zeta only
  extract_lets s2 r
  have h2 : workView s2 = workView s := (keeps_then (workView_countEvents s1 5 _ 1)).trans hd
  generalize hbias : (if eBias e = true then (r.1, some r.2.1, r.2.2) else (s2, none, false, false)) = b
  have hb : workView b.1 = workView s := hbias ▸ workView_fst_ite ((workView_readBias s2 op t v c).trans h2) h2
  obtain ⟨s3, bias, bad, fl⟩ := b
  dsimp -zeta only
  split
  · exact hb
  · exact (workView_reportElem s3 op t _ a.sat).trans hb

/-- A tile's record once its element number x.conv has been converted. -/
def convertedTile (s : State) (op t : Nat) (x : TileSt) : TileSt :=
  let o := (outputElement s op t x.conv).2
  let cols := tileCols (stepOp s op) t
  { x with conv := x.conv + 1, flags := x.flags ||| o.flags,
           biasAt := if o.atStage && x.biasAt.isNone then some (x.conv / cols, x.conv % cols) else x.biasAt }

/-- The state once that element has been delivered to the home loom's drain, the tile not yet closed (R115). -/
def elementDelivered (s : State) (home op t : Nat) (x : TileSt) : State :=
  let r := outputElement s op t x.conv
  let u := setTile r.1 (tileKey ⟨op, t, 0, 0⟩) (convertedTile s op t x)
  updRun (setOpRun u op { opRun u op with strict := (opRun u op).strict ||| r.2.strict }) (feederOf home) 2 op none
    fun q => deliver q [r.2.elem]

/-- The output stage delivers its next element; with the tile's last one the tile closes, and its operation ends if it can. -/
theorem convertNext_of_outputWork {s : State} {home op t : Nat} {x : TileSt} (hwork : outputWork s home = some (op, t))
    (htile : tileOf s ⟨op, t, 0, 0⟩ = some x) (hhere : elementHere s op t x.conv = true) :
    convertNext s home = if tileCols (stepOp s op) t * tileVecsOf (stepOp s op) t ≤ x.conv + 1
      then tryCompleteLoom (closeTile (elementDelivered s home op t x) op t (convertedTile s op t x)) op
      else elementDelivered s home op t x := by
  unfold convertNext
  rw [hwork]
  dsimp only
  rw [htile]
  simp only [Option.getD_some, hhere, Bool.not_true, Bool.false_eq_true, if_false]
  rfl

/-- The view with a tile's record replaced. -/
def WorkView.withTile (v : WorkView) (key : Nat) (x : TileSt) : WorkView := { v with tiles := mapSet v.tiles key x }

theorem workView_elementDelivered (s : State) (home op t : Nat) (x : TileSt) :
    workView (elementDelivered s home op t x) = (workView s).withTile (tileKey ⟨op, t, 0, 0⟩) (convertedTile s op t x) :=
  (workView_updRun _ _ _ _ _ _).trans
    (congrArg (WorkView.withTile · (tileKey ⟨op, t, 0, 0⟩) (convertedTile s op t x)) (workView_outputElement s op t x.conv))

theorem tileOf_elementDelivered (s : State) (home op t : Nat) (x : TileSt) :
    tileOf (elementDelivered s home op t x) ⟨op, t, 0, 0⟩ = some (convertedTile s op t x) := by
  have htiles : (elementDelivered s home op t x).eng.tiles = mapSet s.eng.tiles (tileKey ⟨op, t, 0, 0⟩) (convertedTile s op t x) :=
    congrArg WorkView.tiles (workView_elementDelivered s home op t x)
  simp [tileOf, htiles, mapFind_mapSet]

theorem tileOf_closeTile (s : State) (op t : Nat) (y : TileSt) : tileOf (closeTile s op t y) ⟨op, t, 0, 0⟩ = none :=
  (mapFind_filter_ne _ _ _).trans (if_pos rfl)

/-! ### An element of the vector unit (R176, R224) -/

theorem workView_vecRead (s : State) (op w i base : Nat) (f : Fmt) : workView (vecRead s op w i base f).1 = workView s := by
  unfold vecRead
  extract_lets b a n
  have hload : workView (loadSpan (countLines s a n) a n).1 = workView s := (workView_loadSpan _ a n).trans (workView_countLines s a n)
  generalize loadSpan (countLines s a n) a n = r at hload ⊢
  obtain ⟨s1, bs⟩ := r
  exact workView_fst_ite ((workView_vecFault s1 op w i 2 a).trans hload)
    (workView_fst_ite ((workView_vecFault s1 op w i 1 a).trans hload) hload)

theorem workView_vecOperands (s : State) (op w i : Nat) (e : Entry) : workView (vecOperands s op w i e).1 = workView s := by
  unfold vecOperands
  refine foldl_keeps (fun acc : State × List Nat × Bool => workView acc.1) _ (fun acc x => ?_) _ (s, [], false)
  exact (keeps_then (workView_flushInput _ _ 1)).trans (workView_vecRead acc.1 op w i x.1 _)

/-- Whatever the operation, its result changes flags, figures, draws, free values and long accumulators only (R176, R179). -/
theorem workView_vecResult (s : State) (op w lane i : Nat) (e : Entry) : workView (vecResult s op w lane i e).1 = workView s := by
  unfold vecResult
  extract_lets strict md fi fo unit poisoned key
  have hoperands := workView_vecOperands s op w i e
  generalize vecOperands s op w i e = r at hoperands ⊢
  obtain ⟨s1, codes, bad⟩ := r
  dsimp -zeta only
  extract_lets num snan flags s2 drawn ch f x scale c flushed gathered noted
  have h2 : workView s2 = workView s := hoperands
  have hflags : ∀ u c, workView (flags u c) = workView u := fun u c =>
    (keeps_then (workView_scaleSat _ _)).trans ((keeps_then (workView_flushInput _ _ 1)).trans (keeps_then (workView_setOpRun u op _)))
  have hpoisoned : ∀ u n, workView (poisoned u n).1 = workView u := fun u n => rfl
  clear_value flags poisoned s2
  rw [← h2]
  split
  -- a comparison
  case h_1 =>
    refine workView_fst_ite (hpoisoned s2 1) ((hflags _ _).trans ?_)
    refine workView_fst_ite ((workView_freeBelow _ 2).trans ?_) ?_ <;>
      exact workView_fst_ite (workView_freeBelow s2 2) rfl
  -- a conversion
  case h_2 =>
    have hdrawn : workView drawn = workView s2 :=
      (keeps_then (workView_countEvents _ 5 w 1)).trans (workView_fst_ite (workView_draw s2 unit 0) rfl)
    have hgathered : workView gathered = workView s2 := (keeps_then (workView_gather1 drawn _ _ _ _ _)).trans hdrawn
    have hnoted : workView noted = workView s2 := (keeps_then (workView_ledgerFlags gathered _ 0)).trans hgathered
    exact workView_fst_ite ((hpoisoned drawn _).trans hdrawn) ((hflags noted c).trans hnoted)
  -- an addition into a long accumulator
  case h_3 => exact keeps_ite rfl (hflags _ _)
  -- the read of a long accumulator
  case h_4 => exact workView_fst_ite (hpoisoned s2 _) (hflags s2 _)
  -- a draw
  case h_5 => rfl
  -- arithmetic on the operands
  case h_6 => exact workView_fst_ite (hpoisoned s2 _) (hflags s2 _)

/-- The state in which element i of an operation has been computed and its code written, its lane not yet moved on (R176, R224). -/
def elementStored (s : State) (op w lane i : Nat) (e : Entry) : State :=
  let r := vecResult s op w lane i e
  match r.2 with
  | none => r.1
  | some (code, bad) =>
    let width := vecWidth e
    let b := vecBit (vD e) width i
    let stored := storeBits (countLines r.1 (b / 8) (ceilDiv width 8)) (codePieces b width (vecWord (vD e) width i) code bad)
    if stored.2.isEmpty then stored.1 else vecFault stored.1 op w i 3 (b / 8)

/-- The state with lane `lane` of workshop w one element further in an operation. -/
def laneMoved (s : State) (op w lane : Nat) : State :=
  { s with eng := { s.eng with lanes := mapSet s.eng.lanes (laneKey op w lane) (laneAt s op w lane + 1) } }

theorem vecElement_eq (s : State) (op w lane i : Nat) (e : Entry) :
    vecElement s op w lane i e = tryCompleteVector (laneMoved (elementStored s op w lane i e) op w lane) op := rfl

theorem workView_elementStored (s : State) (op w lane i : Nat) (e : Entry) : workView (elementStored s op w lane i e) = workView s := by
  have hresult := workView_vecResult s op w lane i e
  unfold elementStored; dsimp only; split
  · exact hresult
  · exact (keeps_ite rfl (workView_vecFault _ op w i 3 _)).trans
      ((workView_storeBits _ _).trans ((workView_countLines _ _ _).trans hresult))

theorem laneAt_laneMoved (s : State) (op w lane : Nat) : laneAt (laneMoved s op w lane) op w lane = laneAt s op w lane + 1 := by
  simp [laneAt, laneMoved, mapGet, mapFind_mapSet]

/-- A vector operation goes on as it is, or completes, its lanes then no longer listed. -/
theorem tryCompleteVector_cases (s : State) (op : Nat) :
    tryCompleteVector s op = s ∨ ∃ u, u.fuses = s.fuses ∧ tryCompleteVector s op = completeOp u op := by
  unfold tryCompleteVector; dsimp only; split
  · exact .inr ⟨{ s with eng := { s.eng with lanes := s.eng.lanes.filter fun l => l.1 / 2 ^ 16 != op } }, rfl, rfl⟩
  · exact .inl rfl

/-- A lane's element moves the lane on, or ends the operation. -/
theorem vecElement_moves (s : State) (op w lane i : Nat) (e : Entry) :
    (vecElement s op w lane i e).fuses = s.fuses ∧
      (laneAt (vecElement s op w lane i e) op w lane = laneAt s op w lane + 1 ∨
        mapGet (vecElement s op w lane i e).step.ops op 0 = 2) := by
  rw [vecElement_eq]
  have hstored := workView_elementStored s op w lane i e
  generalize elementStored s op w lane i e = u at hstored ⊢
  have hfuses : u.fuses = s.fuses := congrArg WorkView.fuses hstored
  have hlanes : u.eng.lanes = s.eng.lanes := congrArg WorkView.lanes hstored
  rcases tryCompleteVector_cases (laneMoved u op w lane) op with h | ⟨v, hv, h⟩
  · rw [h]
    refine ⟨hfuses, .inl ?_⟩
    rw [laneAt_laneMoved, laneAt, hlanes, laneAt]
  · rw [h]
    exact ⟨(completeOp_fuses v op).trans (hv.trans hfuses), .inr (completeOp_completed v op)⟩

/-! ### The rows -/

theorem execVectorElement_works {w : Fin 128} {lane : Fin 64} {s : State} {op : Nat} {e : Entry} (hrun : enginesRun s = true)
    (hwork : laneWork s w.val lane.val = some (op, e)) (hgo : vecWaits s op w.val lane.val e = false) :
    exec (.vectorElement w lane) s =
      .next (vecElement s op w.val lane.val (laneElem e w.val lane.val (laneAt s op w.val lane.val)) e) := by
  show execVectorElement w lane s = _
  simp [execVectorElement, hrun, hwork, hgo]

theorem execOutputStageConvert_runs {l : Fin 512} {s : State} (hrun : enginesRun s = true) :
    exec (.outputStageConvert l) s = .next (convertNext s l.val) := congrArg Host.Outcome.next (if_pos hrun)

/-- Settles O51. The output stage: an element's work leaves the tiles and the operations alone but for its own tile's record
(`workView_elementDelivered`), and a tile that has closed stays closed when its operation ends (`tileOf_tryCompleteLoom`). The vector
unit: what a lane's element computes and stores leaves the lanes alone (`workView_elementStored`), so the lane moves on by one unless
the operation ends (`vecElement_moves`). -/
theorem elementsWritten : Obligations.ElementsWritten := by
  intro l w lane s hrun
  refine ⟨fun op k x hwork htile hhere => ?_, fun op e hwork hgo => ?_⟩
  · rw [execOutputStageConvert_runs hrun, convertNext_of_outputWork hwork htile hhere]
    refine ⟨fun hmore => ?_, fun hlast => ?_⟩
    · rw [if_neg (by omega)]
      have hops := congrArg WorkView.ops (workView_elementDelivered s l.val op k x)
      exact ⟨_, rfl, ⟨_, tileOf_elementDelivered s l.val op k x, rfl, rfl⟩, hops⟩
    · rw [if_pos hlast]
      exact ⟨_, rfl, tileOf_tryCompleteLoom _ op _ (tileOf_closeTile _ op k _)⟩
  · exact ⟨_, execVectorElement_works hrun hwork hgo, vecElement_moves s op w.val lane.val _ e⟩

end Sys2Proof.Machine
end

section
/-! O54: the boundary completes, and the seal begins. What the boundary's work touches outside the job, the fabric and the host interface
is said once for each shared operation, and so is what the seal's beginning touches outside the memories. -/

namespace Sys2Proof.Machine

/-! ### What a boundary and a seal leave alone -/

/-- t with what the work of a boundary and the beginning of a seal may change freely taken from s: the host interface, the memories, the
fabric, the job, the power state, free values, and whether the step waited for sampled tiles. -/
def behindBoundary (s t : State) : State :=
  { behindHost s t with mem := s.mem, fab := s.fab, job := s.job, pow := s.pow, freeCtr := s.freeCtr,
                        step := { t.step with sampleWait := s.step.sampleWait } }

theorem behindBoundary_of_behindHost {r s t : State} (h : behindHost r s = behindHost r t) :
    behindBoundary r s = behindBoundary r t := view_of_mask h (behindBoundary r) fun _ => rfl

theorem behindBoundary_of_behindTensors {r s t : State} (h : behindTensors r s = behindTensors r t) :
    behindBoundary r s = behindBoundary r t := view_of_mask h (behindBoundary r) fun _ => rfl

theorem behindBoundary_withMem (r s : State) (x : MemSt) : behindBoundary r { s with mem := x } = behindBoundary r s := rfl

theorem behindBoundary_withFab (r s : State) (x : FabSt) : behindBoundary r { s with fab := x } = behindBoundary r s := rfl

theorem behindBoundary_withJob (r s : State) (x : JobSt) : behindBoundary r { s with job := x } = behindBoundary r s := rfl

theorem behindBoundary_withPow (r s : State) (x : PowerSt) : behindBoundary r { s with pow := x } = behindBoundary r s := rfl

theorem behindBoundary_freeBelow (r s : State) (n : Nat) : behindBoundary r (freeBelow s n).1 = behindBoundary r s := rfl

theorem behindBoundary_trace (r s : State) (a b c d e : Nat) : behindBoundary r (trace s a b c d e) = behindBoundary r s :=
  behindBoundary_of_behindHost (behindHost_trace r s a b c d e)

theorem behindBoundary_bump (r s : State) (n : Nat) : behindBoundary r (bump s n) = behindBoundary r s :=
  behindBoundary_of_behindHost (behindHost_bump r s n)

theorem behindBoundary_raise (r s : State) (e : EventArgs) (h : e.nmi = false) : behindBoundary r (raise s e) = behindBoundary r s :=
  behindBoundary_of_behindHost (behindHost_raise r s e h)

/-! ### Frames sent (R312, R343, R359) -/

theorem behindBoundary_sendFrame (r s : State) (a : FrameArgs) : behindBoundary r (sendFrame s a) = behindBoundary r s := by
  unfold sendFrame enqueue; split
  · rfl
  · split
    · exact behindBoundary_withFab r s _
    · exact behindBoundary_withFab r s _

theorem behindBoundary_sendMessage (r s : State) (g : Nat) (x : GroupRec) (dest phase op tag : Nat) (lines : List (Line × Bool)) :
    behindBoundary r (sendMessage s g x dest phase op tag lines) = behindBoundary r s :=
  foldl_keeps (behindBoundary r) _ (fun s _ => behindBoundary_sendFrame r s _) _ s

theorem behindBoundary_sendUnits (r s : State) (g : GroupRec) (x : Xchg) (p : Nat) (chunk : Nat → List (List Byte)) :
    behindBoundary r (sendUnits s g x p chunk) = behindBoundary r s :=
  foldl_keeps (behindBoundary r) _ (fun s _ => keeps_else (behindBoundary_sendMessage r s _ _ _ _ _ _ _)) _ s

theorem behindBoundary_sendBarrier (r s : State) (t : Nat) (tag : BitVec 32) :
    behindBoundary r (sendBarrier s t tag) = behindBoundary r s := by
  unfold sendBarrier resendBarrier
  split
  · exact foldl_keeps (behindBoundary r) _ (fun s _ => behindBoundary_sendFrame r s _) _ _
  · rfl

theorem behindBoundary_sendSeal (r s : State) (dest kind item gen offset : Nat) :
    behindBoundary r (sendSeal s dest kind item gen offset) = behindBoundary r s := behindBoundary_sendFrame r s _

theorem behindBoundary_sendItem (r s : State) (dest kind item gen : Nat) (lines : List (Line × Bool)) :
    behindBoundary r (sendItem s dest kind item gen lines) = behindBoundary r s :=
  foldl_keeps (behindBoundary r) _ (fun s _ => behindBoundary_sendFrame r s _) _ s

/-! ### The merges (R333, R336) -/

theorem behindBoundary_putXchg (r s : State) (x : Xchg) : behindBoundary r (putXchg s x) = behindBoundary r s :=
  behindBoundary_withFab r s _

theorem behindBoundary_takeMsgs (r s : State) (g phase op : Nat) : behindBoundary r (takeMsgs s g phase op) = behindBoundary r s :=
  behindBoundary_withFab r s _

theorem behindBoundary_startXchg (r s : State) (x : GroupRec) (g phase op : Nat) (us : List (List Byte)) :
    behindBoundary r (startXchg s x g phase op us) = behindBoundary r s :=
  (behindBoundary_putXchg r _ _).trans (behindBoundary_sendUnits r s _ _ _ _)

theorem behindBoundary_reduceXchg (r : State) (merge : Nat → List Byte → List Byte → List Byte) (s : State) (g : GroupRec)
    (x : Xchg) : behindBoundary r (reduceXchg merge s g x).1 = behindBoundary r s := by
  unfold reduceXchg; split
  · exact (behindBoundary_sendUnits r _ _ _ _ _).trans (behindBoundary_takeMsgs r s _ _ _)
  · rfl

theorem behindBoundary_advanceXchg (r : State) (merge : Nat → List Byte → List Byte → List Byte) (s : State) (g : GroupRec)
    (x : Xchg) : behindBoundary r (advanceXchg merge s g x) = behindBoundary r s := by
  unfold advanceXchg
  refine keeps_else ?_
  have hreduce := behindBoundary_reduceXchg r merge s g x
  rcases hx : reduceXchg merge s g x with ⟨s1, y⟩
  rw [hx] at hreduce
  dsimp only; split
  · exact (behindBoundary_putXchg r _ _).trans ((behindBoundary_takeMsgs r s1 _ _ _).trans hreduce)
  · exact (behindBoundary_putXchg r s1 _).trans hreduce

theorem behindBoundary_advanceMerges (r s : State) : behindBoundary r (advanceMerges s) = behindBoundary r s := by
  unfold advanceMerges
  refine foldl_keeps (behindBoundary r) _ (fun s x => ?_) _ s
  split
  · exact behindBoundary_advanceXchg r _ s _ x
  · rfl

theorem behindBoundary_squareUnits (r s : State) (x : Dy) : behindBoundary r (squareUnits s x).1 = behindBoundary r s := by
  unfold squareUnits; dsimp only; split
  · rfl
  · exact behindBoundary_freeBelow r s 2

theorem behindBoundary_layerRecord (r s : State) (l : SteerLayer) : behindBoundary r (layerRecord s l).1 = behindBoundary r s :=
  (behindBoundary_squareUnits r _ _).trans (behindBoundary_squareUnits r s _)

theorem behindBoundary_groupRecords (r s : State) (g : Nat) : behindBoundary r (groupRecords s g).1 = behindBoundary r s :=
  foldl_keeps (fun acc : State × List (List Byte) => behindBoundary r acc.1) _
    (fun acc l => behindBoundary_layerRecord r acc.1 l) _ (s, [])

theorem behindBoundary_beginMerge (r s : State) (g phase : Nat) (us : List (List Byte)) :
    behindBoundary r (beginMerge s g phase us) = behindBoundary r s := by
  unfold beginMerge; split
  · exact behindBoundary_startXchg r s _ g phase 0 us
  · exact behindBoundary_putXchg r s _

/-- The merges begin in the fabric, with a free bit for what a sum of squares drops (R333, R336). -/
theorem behindBoundary_beginMerges (r s : State) : behindBoundary r (beginMerges s) = behindBoundary r s := by
  unfold beginMerges
  refine (foldl_keeps (behindBoundary r) _ (fun s g => behindBoundary_beginMerge r s g 6 _) _ _).trans ?_
  exact foldl_keeps (behindBoundary r) _
    (fun s g => (behindBoundary_beginMerge r _ g 4 _).trans (behindBoundary_groupRecords r s g)) _ s

/-- Only a free value and the step's note of a wait for sampled tiles change (log 88). -/
theorem noteSampleWait_eq (s : State) :
    ∃ n w, noteSampleWait s = { s with freeCtr := n, step := { s.step with sampleWait := w } } := by
  unfold noteSampleWait; split
  · exact ⟨_, _, rfl⟩
  · exact ⟨s.freeCtr, s.step.sampleWait, rfl⟩

/-! ### Items 3 to 9 of R133 -/

theorem behindBoundary_setTensor (r s : State) (h : Nat) (t : Tensor) : behindBoundary r (setTensor s h t) = behindBoundary r s :=
  behindBoundary_withJob r s _

theorem behindBoundary_enterHistories (r s : State) (fs : List Finding) (newFmt : Nat → Option Nat) :
    behindBoundary r (enterHistories s fs newFmt).1 = behindBoundary r s := by
  unfold enterHistories
  refine foldl_keeps (fun acc : State × List Nat => behindBoundary r acc.1) _ (fun acc e => ?_) _ (s, [])
  exact behindBoundary_setTensor r acc.1 e.1 _

theorem behindBoundary_traceLayer (r s : State) (l new : SteerLayer) : behindBoundary r (traceLayer s l new) = behindBoundary r s := by
  have hone (s : State) (k n a b : Nat) : behindBoundary r (if a = b then s else trace s 5 k n a b) = behindBoundary r s :=
    keeps_else (behindBoundary_trace r s _ _ _ _ _)
  unfold traceLayer
  exact (keeps_else (behindBoundary_trace r _ _ _ _ _ _)).trans
    ((hone _ _ _ _ _).trans ((hone _ _ _ _ _).trans (hone s _ _ _ _)))

theorem behindBoundary_layerEvents (r s : State) (x : Settled) : behindBoundary r (layerEvents s x) = behindBoundary r s := by
  unfold layerEvents
  exact (keeps_then (behindBoundary_raise r _ _ rfl)).trans
    ((keeps_then (behindBoundary_raise r _ _ rfl)).trans (keeps_then (behindBoundary_raise r s _ rfl)))

theorem behindBoundary_writeLayer (r : State) (sats : List Nat) (s : State) (x : Settled) :
    behindBoundary r (writeLayer sats s x) = behindBoundary r s := by
  unfold writeLayer
  exact (behindBoundary_layerEvents r _ x).trans ((behindBoundary_traceLayer r _ _ _).trans
    ((behindBoundary_withJob r _ _).trans (keeps_then (behindBoundary_bump r s _))))

theorem behindBoundary_applyOverrides (r s : State) (cs : List BoundaryCmd) :
    behindBoundary r (applyOverrides s cs) = behindBoundary r s := by
  unfold applyOverrides
  refine (foldl_keeps (behindBoundary r) _ (fun s _ => keeps_else (behindBoundary_withJob r s _)) _ _).trans ?_
  refine (behindBoundary_withJob r _ _).trans ?_
  split
  · exact (behindBoundary_raise r _ _ rfl).trans (behindBoundary_withJob r s _)
  · rfl

theorem behindBoundary_applyTensorSet (r s : State) (h action v : Nat) :
    behindBoundary r (applyTensorSet s h action v) = behindBoundary r s := by
  unfold applyTensorSet; split
  · exact behindBoundary_setTensor r s _ _
  · rfl

theorem behindBoundary_applyDue (r s : State) (c : BoundaryCmd) : behindBoundary r (applyDue s c) = behindBoundary r s := by
  cases c with
  | tensorSet h action v =>
    exact (keeps_then (behindBoundary_of_behindTensors (behindTensors_beginCalibration r _ _))).trans
      (behindBoundary_applyTensorSet r s _ _ _)
  | jobParam valid ge grow => exact behindBoundary_withJob r s _
  | optset n v => exact behindBoundary_withJob r s _
  | opSet o f => exact behindBoundary_withPow r s _
  | powerCap w f => exact behindBoundary_withPow r s _
  | pin l wt act => rfl
  | overrideSet u k => rfl
  | overrideRemove u => rfl

/-- The changes due stay within the job and the power state (R401). -/
theorem behindBoundary_applyChanges (r s : State) : behindBoundary r (applyChanges s) = behindBoundary r s := by
  unfold applyChanges
  exact (keeps_else (behindBoundary_raise r _ _ rfl)).trans ((behindBoundary_applyOverrides r _ _).trans
    ((foldl_keeps (behindBoundary r) _ (behindBoundary_applyDue r) _ _).trans (keeps_then (behindBoundary_withJob r s _))))

/-- The Assayer's decisions are written into the job, with their traces and events. -/
theorem behindBoundary_assayerWork (r s : State) : behindBoundary r (assayerWork s) = behindBoundary r s := by
  unfold assayerWork
  extract_lets fs g xs newFmt
  have hhist := behindBoundary_enterHistories r s fs newFmt
  rcases hx : enterHistories s fs newFmt with ⟨s1, sats⟩
  rw [hx] at hhist
  have hwrite : behindBoundary r (xs.foldl (writeLayer sats) (applyChanges s1)) = behindBoundary r s :=
    (foldl_keeps (behindBoundary r) _ (behindBoundary_writeLayer r sats) xs _).trans
      ((behindBoundary_applyChanges r s1).trans hhist)
  dsimp only; split
  · exact hwrite
  · exact (behindBoundary_raise r _ _ rfl).trans hwrite

/-! ### The boundary completes (R133, R343, R456) -/

theorem behindBoundary_purseLimit (r s : State) : behindBoundary r (purseLimit s) = behindBoundary r s := by
  unfold purseLimit
  exact (keeps_then (behindBoundary_raise r _ _ rfl)).trans (behindBoundary_withPow r s _)

theorem behindBoundary_settlePoint (r s : State) (free : Bool) : behindBoundary r (settlePoint s free) = behindBoundary r s := by
  obtain ⟨pw, h⟩ := behindHost_settlePoint r s free
  exact (behindBoundary_of_behindHost h).trans (behindBoundary_withPow r s pw)

/-- The state whose seal comes next, and whose step waits for its barrier. -/
def sealNext (s : State) : State :=
  { s with step := { s.step with phase := 3, barrier := 1 }, sealer := { s.sealer with phase := 0 } }

/-- The state once its boundary's work is done: the Assayer's figures are gone and the seal comes next. -/
def awaitingSeal (s : State) : State := sealNext { s with assay := AssaySt.none }

theorem behindBoundary_sealNext {r s t : State} (h : behindBoundary r s = behindBoundary r t) :
    behindBoundary r (sealNext s) = behindBoundary r (sealNext t) := congrArg sealNext h

theorem behindBoundary_awaitingSeal {r s t : State} (h : behindBoundary r s = behindBoundary r t) :
    behindBoundary r (awaitingSeal s) = behindBoundary r (awaitingSeal t) := congrArg awaitingSeal h

/-- What is done at a boundary's completion, in order. -/
theorem completeBoundary_eq (s : State) :
    ∃ job fab n tag, completeBoundary s =
      sendBarrier (sealNext (settlePoint (purseLimit { assayerWork s with job := job, fab := fab, assay := AssaySt.none }) true)) n tag :=
  ⟨_, _, _, _, rfl⟩

theorem behindBoundary_completeBoundary (r s : State) :
    behindBoundary r (completeBoundary s) = behindBoundary r (awaitingSeal s) := by
  obtain ⟨job, fab, n, tag, h⟩ := completeBoundary_eq s
  have hpoint (u : State) : behindBoundary r (settlePoint (purseLimit u) true) = behindBoundary r u :=
    (behindBoundary_settlePoint r _ true).trans (behindBoundary_purseLimit r u)
  rw [h, behindBoundary_sendBarrier, behindBoundary_sealNext (hpoint _)]
  exact behindBoundary_awaitingSeal (behindBoundary_assayerWork r s)

/-- The state with the merges of its boundary under way. -/
def mergesOpened (s : State) : State :=
  if mergesBegun s then s
  else beginMerges (trace (noteSampleWait { s with assay := { s.assay with dueCount := s.job.due.length } }) 2 2
    s.step.plan (genOf s s.step.number.toNat).toNat 0)

theorem behindBoundary_mergesOpened (r s : State) :
    ∃ x, behindBoundary r (mergesOpened s) = behindBoundary r { s with assay := x } := by
  unfold mergesOpened; split
  · exact ⟨s.assay, rfl⟩
  · obtain ⟨n, w, hnote⟩ := noteSampleWait_eq { s with assay := { s.assay with dueCount := s.job.due.length } }
    rw [hnote]
    exact ⟨_, (behindBoundary_beginMerges r _).trans (behindBoundary_trace r _ _ _ _ _ _)⟩

/-- The trace record of the boundary's start reads what the note of a wait does not touch. -/
theorem trace_noteSampleWait (s : State) (x : AssaySt) :
    let u := noteSampleWait { s with assay := x }
    trace u 2 2 u.step.plan (genOf u u.step.number.toNat).toNat 0 = trace u 2 2 s.step.plan (genOf s s.step.number.toNat).toNat 0 := by
  obtain ⟨n, w, hnote⟩ := noteSampleWait_eq { s with assay := x }
  rw [hnote]; rfl

/-- A boundary that is neither abandoned nor invalid advances from its opened merges. -/
theorem boundaryWork_opened {s : State} (hkept : s.step.abandoned = false) (hvalid : s.step.invalid = false) :
    boundaryWork s = advanceBoundary (mergesOpened s) := by
  have htrace := trace_noteSampleWait s { s.assay with dueCount := s.job.due.length }
  dsimp only at htrace
  simp only [boundaryWork, mergesOpened, hkept, hvalid, htrace, Bool.false_eq_true, if_false, apply_ite advanceBoundary]

theorem advanceBoundary_agreed {s : State} (hdone : mergesDone (advanceMerges s) = true) (hagree : disagreements (advanceMerges s) = []) :
    advanceBoundary s = completeBoundary (advanceMerges s) := by
  simp [advanceBoundary, hdone, hagree]

/-- With every merge complete and every member in agreement, what is left of the boundary's work is the step's wait for its seal. -/
theorem boundaryWork_agreed {s : State} (r : State) (hkept : s.step.abandoned = false) (hvalid : s.step.invalid = false)
    (hdone : mergesDone (advanceMerges (mergesOpened s)) = true) (hagree : disagreements (advanceMerges (mergesOpened s)) = []) :
    behindBoundary r (boundaryWork s) = behindBoundary r (awaitingSeal s) := by
  obtain ⟨x, hopen⟩ := behindBoundary_mergesOpened r s
  rw [boundaryWork_opened hkept hvalid, advanceBoundary_agreed hdone hagree, behindBoundary_completeBoundary]
  exact behindBoundary_awaitingSeal (t := { s with assay := x }) ((behindBoundary_advanceMerges r _).trans hopen)

theorem execBoundaryWork_due {s : State} (hactive : s.step.active = true) (hstop : stopped s = false) (hphase : s.step.phase = 2)
    (hstale : s.fab.stale = []) (hdue : allOpsDone s = true ∨ s.step.abandoned = true) :
    exec .boundaryWork s = .next (boundaryWork s) := by
  show execBoundaryWork s = _
  simp [execBoundaryWork, hactive, hstop, hphase, hstale, hdue]

theorem boundaryWork_abandoned {s : State} (h : s.step.abandoned = true) : boundaryWork s = dropStep s := if_pos h

/-! ### The seal begins (R357) -/

theorem behindBoundary_raiseUnc (r s : State) (key index loc : Nat) :
    behindBoundary r (raiseUnc s key index loc) = behindBoundary r s := by
  unfold raiseUnc
  exact keeps_else ((behindBoundary_raise r _ _ rfl).trans (behindBoundary_withMem r s _))

theorem behindBoundary_raiseCe (r s : State) (key : Nat) : behindBoundary r (raiseCe s key) = behindBoundary r s := by
  unfold raiseCe
  exact (keeps_then (behindBoundary_raise r _ _ rfl)).trans (behindBoundary_withMem r s _)

theorem behindBoundary_logMem (r s : State) (p found : Nat) (unc : Bool) (x : WordRead) :
    behindBoundary r (logMem s p found unc x) = behindBoundary r s := by
  unfold logMem
  exact (keeps_ite (behindBoundary_raiseUnc r _ _ _ _) (behindBoundary_raiseCe r _ _)).trans
    ((behindBoundary_trace r _ _ _ _ _ _).trans ((behindBoundary_bump r _ _).trans
      ((keeps_then (behindBoundary_bump r _ _)).trans (behindBoundary_withMem r s _))))

theorem behindBoundary_lookupEntry (r s : State) (ea : Nat) : behindBoundary r (lookupEntry s ea).1 = behindBoundary r s := by
  unfold lookupEntry; dsimp only; split
  · rfl
  · rfl
  · exact (behindBoundary_logMem r _ _ _ _ _).trans (behindBoundary_withMem r s _)
  · split
    · rfl
    · exact (behindBoundary_logMem r _ _ _ _ _).trans (behindBoundary_withMem r s _)

theorem behindBoundary_writeEntryAs (r s : State) (ea e tag : Nat) :
    behindBoundary r (writeEntryAs s ea e tag) = behindBoundary r s := by
  unfold writeEntryAs
  exact (behindBoundary_withMem r _ _).trans (behindBoundary_lookupEntry r s ea)

/-- Protecting the pages writes the page map, and touches no more than the memories and the host interface (R357). -/
theorem behindBoundary_protectPages (r s : State) (gen : Nat) : behindBoundary r (protectPages s gen) = behindBoundary r s := by
  unfold protectPages
  refine foldl_keeps (behindBoundary r) _ (fun s v => ?_) _ s
  split
  · exact (behindBoundary_writeEntryAs r _ _ _ _).trans (behindBoundary_lookupEntry r s _)
  · rfl

/-- The state whose sealer has shipped generation gen and waits for the acknowledgement of some items. -/
def shipped (s : State) (gen : Nat) (items : List (Nat × Nat)) : State :=
  { s with sealer := { s.sealer with phase := 2, gen := BitVec.ofNat 32 gen, unacked := items } }

/-- The items of a generation sent to the buddy one after the other, then the marker (R357). -/
def itemsSent (s : State) (gen : Nat) (items : List (Nat × Nat × List (Line × Bool))) : State :=
  let buddy := sdBuddy s.job.sealDesc
  sendSeal (items.foldl (fun s it => sendItem s buddy it.1 it.2.1 gen it.2.2) s) buddy 3 0 gen items.length

theorem behindBoundary_itemsSent (r s : State) (gen : Nat) (items : List (Nat × Nat × List (Line × Bool))) :
    behindBoundary r (itemsSent s gen items) = behindBoundary r s :=
  (behindBoundary_sendSeal r _ _ _ _ _ _).trans
    (foldl_keeps (behindBoundary r) _ (fun s _ => behindBoundary_sendItem r s _ _ _ _ _) _ s)

theorem journalChunks_nil (s : State) : journalChunks s (sortRows []) = (s, [], none) := by
  rw [sortRows, List.foldl_nil, journalChunks, List.foldl_nil]

/-- With nothing dirty the generation is shipped, and no page can hold it back (R357, R377). -/
theorem shipGeneration_clean (s : State) (gen : Nat) (rec_ : List Byte) :
    ∃ items, shipGeneration s gen [] [] rec_ = (shipped (itemsSent s gen items) gen (items.map fun it => (it.1, it.2.1)), none) := by
  unfold shipGeneration
  simp only [List.foldl_nil, List.flatMap_nil, List.filter_nil, journalChunks_nil, Option.or_none]
  exact ⟨_, rfl⟩

theorem behindBoundary_shipped {r s t : State} (gen : Nat) (items : List (Nat × Nat)) (h : behindBoundary r s = behindBoundary r t) :
    behindBoundary r (shipped s gen items) = behindBoundary r (shipped t gen items) := congrArg (shipped · gen items) h

/-- The state whose sealer takes its dirty set into generation gen (R356). -/
def dirtyTaken (s : State) (gen : Nat) : State :=
  { s with sealer := { s.sealer with phase := 1, gen := BitVec.ofNat 32 gen, dirtyPages := [], dirtyRows := [] } }

theorem behindBoundary_dirtyTaken {r s t : State} (gen : Nat) (h : behindBoundary r s = behindBoundary r t) :
    behindBoundary r (dirtyTaken s gen) = behindBoundary r (dirtyTaken t gen) := congrArg (dirtyTaken · gen) h

theorem behindBoundary_keepRecord {r s t : State} (gen : Nat) (rec_ : List Byte) (h : behindBoundary r s = behindBoundary r t) :
    behindBoundary r (keepRecord s gen rec_) = behindBoundary r (keepRecord t gen rec_) := congrArg (keepRecord · gen rec_) h

theorem behindBoundary_keepHead (r s : State) (t gen cursor : Nat) : behindBoundary r (keepHead s t gen cursor) = behindBoundary r s :=
  behindBoundary_withJob r s _

/-- The seal of a step that left nothing dirty keeps its record and ships it (R356, R357). Once their frames are known, the states on the
way are generalised: the kernel, given their values, would evaluate the places of the page map. -/
theorem behindBoundary_beginSeal (r s : State) (hpages : s.sealer.dirtyPages = []) (hrows : s.sealer.dirtyRows = []) :
    let gen := (genOf s s.step.number.toNat).toNat
    ∃ rec_ items, behindBoundary r (beginSeal s) = behindBoundary r (shipped (dirtyTaken (keepRecord s gen rec_) gen) gen items) := by
  intro _
  unfold beginSeal
  extract_lets t gen s1 u rec_ v pages rows _ w
  have hprotect : behindBoundary r u = behindBoundary r s :=
    (behindBoundary_protectPages r s1 gen).trans (behindBoundary_trace r s _ _ _ _ _)
  have hkept : behindBoundary r v = behindBoundary r (keepRecord s gen rec_) :=
    behindBoundary_keepRecord gen rec_ ((behindBoundary_keepHead r u _ _ _).trans hprotect)
  clear_value v rec_
  have hsealer : v.sealer = (keepRecord s gen rec_).sealer := view_of_mask hkept State.sealer fun _ => rfl
  have hdirty : v.sealer.dirtyPages = [] := (congrArg SealSt.dirtyPages hsealer).trans hpages
  have hp : pages = [] := by simp only [pages, hdirty, List.foldl_nil, List.map_nil]
  have hr : rows = [] := (congrArg SealSt.dirtyRows hsealer).trans hrows
  obtain ⟨items, hship⟩ := shipGeneration_clean w gen rec_
  rw [hp, hr, hship]
  refine ⟨rec_, items.map fun it => (it.1, it.2.1), behindBoundary_shipped gen _ ?_⟩
  exact (behindBoundary_itemsSent r w gen items).trans (behindBoundary_dirtyTaken gen hkept)

theorem execSealBegin_due {s : State} (hactive : s.step.active = true) (hstop : stopped s = false) (hphase : s.step.phase = 3)
    (hnone : s.sealer.phase = 0) : exec .sealBegin s = .next (beginSeal s) := by
  show execSealBegin s = _
  simp [execSealBegin, hactive, hstop, hphase, hnone]

/-- Settles O54. An abandoned step just ends (`boundaryWork_abandoned`). A boundary whose merges are complete and agree leaves, behind
what `behindBoundary` takes away, only the step's wait for its seal (`boundaryWork_agreed`). Behind the same, the seal of a step with
nothing dirty keeps its record and ships the generation (`behindBoundary_beginSeal`). -/
theorem boundaryAndSeal : Obligations.BoundaryAndSeal := by
  intro s hactive hstop
  refine ⟨fun hphase hstale habandoned => ?_, fun u hphase hstale hops hkept hvalid hu hdone hagree => ?_,
    fun hphase hnone hpages hrows => ?_⟩
  · refine ⟨_, execBoundaryWork_due hactive hstop hphase hstale (.inr habandoned), ?_⟩
    rw [boundaryWork_abandoned habandoned]
    exact ⟨rfl, rfl, rfl, rfl, rfl, rfl, rfl⟩
  · subst hu
    have hwork := boundaryWork_agreed s hkept hvalid hdone hagree
    exact ⟨_, execBoundaryWork_due hactive hstop hphase hstale (.inl hops),
      view_of_mask hwork (·.step.phase) fun _ => rfl,
      view_of_mask hwork (·.step.barrier) fun _ => rfl,
      (view_of_mask hwork (·.step.active) fun _ => rfl).trans hactive,
      view_of_mask hwork (·.sealer.phase) fun _ => rfl,
      view_of_mask hwork State.assay fun _ => rfl,
      view_of_mask hwork State.fuses fun _ => rfl,
      view_of_mask hwork (·.ident.committed) fun _ => rfl⟩
  · obtain ⟨rec_, items, hseal⟩ := behindBoundary_beginSeal s s hpages hrows
    have hsealer := view_of_mask hseal State.sealer fun _ => rfl
    refine ⟨_, execSealBegin_due hactive hstop hphase hnone, congrArg SealSt.phase hsealer, ?_, congrArg SealSt.dirtyPages hsealer,
      congrArg SealSt.dirtyRows hsealer, ?_, (view_of_mask hseal (·.step.active) fun _ => rfl).trans hactive,
      view_of_mask hseal (·.ident.committed) fun _ => rfl⟩
    · exact (congrArg SealSt.gen hsealer).trans ((BitVec.ofNat_toNat _ _).trans (BitVec.setWidth_eq _))
    · rw [congrArg SealSt.records hsealer]
      show (mapFind (mapSet s.sealer.records _ rec_) _).isSome = true
      simp [mapFind_mapSet]

end Sys2Proof.Machine
end

section
/-! O52: streams. A carter list may name a carter twice, and only its first entry is read; the end of an operation drops carters that
have become idle, and so can bring a second entry into view. O52 speaks of every state and does not exclude such a list; where the
keys rise, what it says of a completed transfer holds (`transferComplete_outstanding_lt`). -/

namespace Sys2Proof.Machine

/-- A read of the first element of operation 0's run in slot 0, outstanding, with its number in issue order. -/
def pendingRead (seq : Nat) : Xfer := ⟨0, 0, none, false, 0, 1, none, 0, 2, seq⟩

/-- A loom operation under way whose output is all written, and two entries for carter 0: the one that is read has a run of the operation
and one transfer outstanding, the one behind it has two transfers outstanding. -/
def carterListedTwice : State :=
  { State.reset with
    step := { StepSt.none with active := true, ops := [(0, 1)] }
    eng := { EngSt.none with
      ops := [(0, ⟨0, 0, 0, 0, [], 0, [], 0⟩)]
      carters := [(0, ⟨[(0, [Run.start 0 none [] 0 [(0, 1)]])], [pendingRead 0]⟩),
                  (0, ⟨[], [pendingRead 1, pendingRead 2]⟩)] } }

theorem execTransferComplete_runs {c : Fin 768} {i : Nat} {s : State} (hrun : enginesRun s = true) :
    exec (.transferComplete c i) s = .next (afterStream (completeXfer s c.val i) c.val) := congrArg Host.Outcome.next (if_pos hrun)

/-- O52 says that no read's completion leaves as many transfers outstanding as before. -/
theorem outstanding_lt_of_streamsMove (h : Obligations.StreamsMove) {c : Fin 768} {i : Nat} {s : State} {x : Xfer}
    (hrun : enginesRun s = true) (hx : ((carterAt s c.val).xfers.filter fun k => k.data.isNone)[i]? = some x) (hread : x.write = false) :
    outstanding (carterAt (afterStream (completeXfer s c.val i) c.val) c.val) < outstanding (carterAt s c.val) := by
  obtain ⟨hengines, _⟩ := h c 0 i 0 s
  obtain ⟨_, _, hcomplete, _⟩ := hengines hrun
  obtain ⟨t, hexec, hfewer, _⟩ := hcomplete x hx fun hwrite => absurd (hread.symm.trans hwrite) (by decide)
  rw [execTransferComplete_runs hrun] at hexec
  rwa [Host.Outcome.next.inj hexec]

/-- The one transfer outstanding completes; with it the operation ends, the first entry goes, and two are outstanding. -/
theorem outstanding_carterListedTwice :
    outstanding (carterAt carterListedTwice 0) = 1 ∧
      outstanding (carterAt (afterStream (completeXfer carterListedTwice 0 0) 0) 0) = 2 := by decide +kernel

/-- Refutes O52: in `carterListedTwice` the completion of the one transfer outstanding leaves two, since the state lists carter 0 twice.
No other clause is refuted, nor this one where the keys of the carter list rise. -/
theorem not_streamsMove : ¬ Obligations.StreamsMove := by
  intro h
  obtain ⟨hbefore, hafter⟩ := outstanding_carterListedTwice
  have hfewer := outstanding_lt_of_streamsMove h (c := 0) (i := 0) (s := carterListedTwice) (x := pendingRead 0)
    (by decide) (by decide) rfl
  rw [Fin.val_zero, hbefore, hafter] at hfewer
  omega

end Sys2Proof.Machine
end

section
/-! R213 where the keys of the carter list rise: a completed transfer is outstanding no more, and the keys still rise. -/

namespace Sys2Proof.Machine

/-! ### A carter list with rising keys -/

theorem risingKeys_sparseSet {α : Type} [DecidableEq α] (d : α) (m : List (Nat × α)) (k : Nat) (v : α) (h : risingKeys m = true) :
    risingKeys (sparseSet d m k v) = true := by
  unfold sparseSet; split
  · exact risingKeys_filter m _ h
  · exact risingKeys_mapSet m k v h

theorem risingKeys_map {α : Type} (f : α → α) (m : List (Nat × α)) (h : risingKeys m = true) :
    risingKeys (m.map fun e => (e.1, f e.2)) = true := by
  induction m with
  | nil => rfl
  | cons e m ih =>
    obtain ⟨hless, hrest⟩ := (risingKeys_cons e.1 e.2 m).1 h
    refine (risingKeys_cons _ _ _).2 ⟨fun x hx => ?_, ih hrest⟩
    obtain ⟨y, hy, rfl⟩ := List.mem_map.1 hx
    exact hless y hy

theorem mapGet_map {α : Type} (f : α → α) (m : List (Nat × α)) (k : Nat) {d : α} (hd : f d = d) :
    mapGet (m.map fun e => (e.1, f e.2)) k d = f (mapGet m k d) := by
  induction m with
  | nil => exact hd.symm
  | cons e m ih =>
    simp only [mapGet, List.map_cons, mapFind] at ih ⊢
    split
    · rfl
    · exact ih

/-- A key that no entry has reads as the value of an unlisted one. -/
theorem mapGet_of_forall_ne {α : Type} {m : List (Nat × α)} {k : Nat} (d : α) (h : ∀ e ∈ m, e.1 ≠ k) : mapGet m k d = d := by
  unfold mapGet
  cases hfind : mapFind m k with
  | none => rfl
  | some v => exact absurd rfl (h _ (mem_of_mapFind hfind))

/-- Entries that only say what an unlisted key reads as can go, where no key is listed twice. -/
theorem mapGet_filter_ne_default {α : Type} [DecidableEq α] (d : α) (m : List (Nat × α)) (k : Nat) (h : risingKeys m = true) :
    mapGet (m.filter fun e => e.2 != d) k d = mapGet m k d := by
  induction m with
  | nil => rfl
  | cons e m ih =>
    obtain ⟨hless, hrest⟩ := (risingKeys_cons e.1 e.2 m).1 h
    have ih := ih hrest
    by_cases hk : e.1 = k
    · by_cases hv : e.2 = d
      · have hgone : ∀ x ∈ m.filter fun e => e.2 != d, x.1 ≠ k := fun x hx => by
          have := hless x (List.mem_filter.1 hx).1
          omega
        rw [List.filter_cons_of_neg (by simp [hv]), mapGet_of_forall_ne d hgone]
        simp [mapGet, mapFind, hk, hv]
      · rw [List.filter_cons_of_pos (by simp [hv])]
        simp [mapGet, mapFind, hk]
    · have hnext : mapGet (e :: m) k d = mapGet m k d := by simp [mapGet, mapFind, hk]
      rw [hnext, ← ih]
      simp only [List.filter_cons]
      split
      · simp [mapGet, mapFind, hk]
      · rfl

/-! ### What leaves the transfers as they are -/

/-- The keys still rise and the fuses are the same, and so are the transfers of every carter. -/
structure TransfersKept (s t : State) : Prop where
  fuses : t.fuses = s.fuses
  rising : risingKeys t.eng.carters = true
  xfers : ∀ c, (carterAt t c).xfers = (carterAt s c).xfers

theorem TransfersKept.trans {s t u : State} (h : TransfersKept s t) (h' : TransfersKept t u) : TransfersKept s u :=
  ⟨h'.fuses.trans h.fuses, h'.rising, fun c => (h'.xfers c).trans (h.xfers c)⟩

/-- The fuses and the carters. -/
def fusesAndCarters (s : State) : FuseSt × List (Nat × CarterSt) := (s.fuses, s.eng.carters)

theorem TransfersKept.of_eq {s t : State} (hrise : risingKeys s.eng.carters = true) (h : fusesAndCarters t = fusesAndCarters s) :
    TransfersKept s t := by
  obtain ⟨hfuses, hcarters⟩ := Prod.mk.inj h
  exact ⟨hfuses, by rw [hcarters]; exact hrise, fun c => by rw [carterAt, hcarters, carterAt]⟩

@[simp] theorem carterAt_setCarter (s : State) (c k : Nat) (x : CarterSt) :
    carterAt (setCarter s c x) k = if c = k then x else carterAt s k := mapGet_sparseSet CarterSt.idle s.eng.carters c k x

theorem setCarter_rising {s : State} (h : risingKeys s.eng.carters = true) (c : Nat) (x : CarterSt) :
    risingKeys (setCarter s c x).eng.carters = true := risingKeys_sparseSet CarterSt.idle s.eng.carters c x h

theorem transfersKept_setRuns {s : State} (h : risingKeys s.eng.carters = true) (c slot : Nat) (rs : List Run) :
    TransfersKept s (setRuns s c slot rs) := by
  refine ⟨rfl, setCarter_rising h c _, fun k => ?_⟩
  unfold setRuns
  rw [carterAt_setCarter]
  split
  next hc => rw [← hc]
  · rfl

theorem transfersKept_dropUnitRuns {s : State} (h : risingKeys s.eng.carters = true) (l : Nat) (u : UnitId) :
    TransfersKept s (dropUnitRuns s l u) :=
  List.foldlRecOn _ _ (.of_eq h rfl) fun _ hkept _ _ => hkept.trans (transfersKept_setRuns hkept.rising _ _ _)

/-! ### The end of a loom's streaming (R98, R101, R190) -/

theorem fusesAndCarters_keepInputs (s : State) (l : Nat) (u : UnitId) : fusesAndCarters (keepInputs s l u) = fusesAndCarters s := by
  unfold keepInputs; split
  · exact keeps_else rfl
  · rfl

theorem fusesAndCarters_noteMiss (s : State) (l : Nat) : fusesAndCarters (noteMiss s l) = fusesAndCarters s := by
  unfold noteMiss
  exact keeps_then rfl

theorem transfersKept_unitDone {s : State} (h : risingKeys s.eng.carters = true) (l : Nat) (u : UnitId) :
    TransfersKept s (noteMiss (unitDone s l u) l) := by
  have hinputs : TransfersKept s (keepInputs (bump s (0x200 + l)) l u) := .of_eq h (fusesAndCarters_keepInputs _ l u)
  have hdone : TransfersKept s (unitDone s l u) := hinputs.trans (transfersKept_dropUnitRuns hinputs.rising l u)
  exact hdone.trans (.of_eq hdone.rising (fusesAndCarters_noteMiss _ l))

theorem transfersKept_settle {s : State} (h : risingKeys s.eng.carters = true) (l : Nat) : TransfersKept s (settle s l) := by
  have hsame : ∀ t, fusesAndCarters t = fusesAndCarters s → TransfersKept s t := fun t => .of_eq h
  have hdone : ∀ t u, fusesAndCarters t = fusesAndCarters s → TransfersKept s (noteMiss (unitDone t l u) l) := fun t u ht =>
    (hsame t ht).trans (transfersKept_unitDone (hsame t ht).rising l u)
  unfold settle; dsimp only; split
  · exact hsame s rfl
  · split
    · exact hsame s rfl
    · split
      · exact hsame _ rfl
      · split
        · split
          · exact hdone _ _ rfl
          · exact hsame _ rfl
        · split
          · exact hsame s rfl
          · exact hdone _ _ rfl

/-! ### The end of an operation (R179, R267, R341) -/

theorem fusesAndCarters_of_behindMemory {r s t : State} (h : behindMemory r s = behindMemory r t) :
    fusesAndCarters s = fusesAndCarters t := view_of_mask h fusesAndCarters fun _ => rfl

theorem fusesAndCarters_trace (s : State) (a b c d e : Nat) : fusesAndCarters (trace s a b c d e) = fusesAndCarters s :=
  fusesAndCarters_of_behindMemory (behindMemory_trace s s a b c d e)

theorem fusesAndCarters_raise (s : State) (e : EventArgs) (h : e.nmi = false) : fusesAndCarters (raise s e) = fusesAndCarters s :=
  fusesAndCarters_of_behindMemory (behindMemory_raise s s e h)

theorem fusesAndCarters_sendFrame (s : State) (a : FrameArgs) : fusesAndCarters (sendFrame s a) = fusesAndCarters s :=
  view_of_mask (behindBoundary_sendFrame s s a) fusesAndCarters fun _ => rfl

theorem fusesAndCarters_releaseSlots (s : State) (e : Entry) : fusesAndCarters (releaseSlots s e) = fusesAndCarters s := by
  unfold releaseSlots
  refine foldl_keeps fusesAndCarters _ (fun s q => ?_) _ s
  exact keeps_then (keeps_ite rfl (fusesAndCarters_sendFrame _ _))

theorem fusesAndCarters_keepGather (s : State) (e : Entry) : fusesAndCarters (keepGather s e) = fusesAndCarters s := by
  unfold keepGather
  exact keeps_then rfl

theorem fusesAndCarters_localNorm (s : State) (l : SteerLayer) (grad : Bool) :
    fusesAndCarters (localNorm s l grad) = fusesAndCarters s := by
  unfold localNorm
  exact keeps_else (keeps_ite rfl (keeps_ite rfl (keeps_ite rfl (fusesAndCarters_raise _ _ rfl))))

theorem fusesAndCarters_normTests (s : State) (e : Entry) : fusesAndCarters (normTests s e) = fusesAndCarters s := by
  unfold normTests
  refine foldl_keeps fusesAndCarters _ (fun s l => ?_) _ s
  exact (keeps_then (fusesAndCarters_localNorm _ l true)).trans (keeps_then (fusesAndCarters_localNorm s l false))

theorem fusesAndCarters_tryMillPhase (s : State) : fusesAndCarters (tryMillPhase s) = fusesAndCarters s := by
  rcases tryMillPhase_cases s with h | ⟨v, p, _, h⟩
  · rw [h]
  · exact view_of_mask h fusesAndCarters fun _ => rfl

/-- A carter without its runs of operation op. -/
def withoutOp (op : Nat) (c : CarterSt) : CarterSt :=
  { c with runs := (c.runs.map fun x => (x.1, x.2.filter fun q => q.op != op)).filter fun x => !x.2.isEmpty }

/-- The carters without the runs of operation op, those that have become idle no longer listed. -/
def cartersWithoutOp (op : Nat) (m : List (Nat × CarterSt)) : List (Nat × CarterSt) :=
  (m.map fun c => (c.1, withoutOp op c.2)).filter fun c => c.2 != CarterSt.idle

theorem fusesAndCarters_completeOp (s : State) (op : Nat) :
    fusesAndCarters (completeOp s op) = (s.fuses, cartersWithoutOp op s.eng.carters) := by
  unfold completeOp
  refine (fusesAndCarters_tryMillPhase _).trans ((fusesAndCarters_normTests _ _).trans ((fusesAndCarters_keepGather _ _).trans
    ((fusesAndCarters_releaseSlots _ _).trans ?_)))
  exact congrArg (fun v : FuseSt × List (Nat × CarterSt) => (v.1, cartersWithoutOp op v.2))
    (fusesAndCarters_trace s 3 1 op s.step.plan (opRun s op).tiles)

theorem transfersKept_completeOp {s : State} (h : risingKeys s.eng.carters = true) (op : Nat) : TransfersKept s (completeOp s op) := by
  obtain ⟨hfuses, hcarters⟩ := Prod.mk.inj (fusesAndCarters_completeOp s op)
  have hmap := risingKeys_map (withoutOp op) s.eng.carters h
  refine ⟨hfuses, ?_, fun c => ?_⟩
  · rw [hcarters]
    exact risingKeys_filter _ _ hmap
  · rw [carterAt, hcarters, cartersWithoutOp, mapGet_filter_ne_default _ _ c hmap, mapGet_map (withoutOp op) _ c rfl]
    rfl

theorem transfersKept_tryCompleteLoom {s : State} (h : risingKeys s.eng.carters = true) (op : Nat) :
    TransfersKept s (tryCompleteLoom s op) := by
  rcases tryCompleteLoom_cases s op with hs | hs
  · rw [hs]
    exact .of_eq h rfl
  · rw [hs]
    exact transfersKept_completeOp h op

/-- Whatever ends with a stream's progress, the transfers stay. -/
theorem transfersKept_afterStream {s : State} (h : risingKeys s.eng.carters = true) (c : Nat) : TransfersKept s (afterStream s c) := by
  have hsettled : TransfersKept s (match loomOf c with | some l => settle s l | none => s) := by
    split
    · exact transfersKept_settle h _
    · exact .of_eq h rfl
  exact List.foldlRecOn _ _ hsettled fun _ hkept op _ => hkept.trans (transfersKept_tryCompleteLoom hkept.rising op)

/-! ### A transfer completes (R213, R223, R224) -/

theorem fusesAndCarters_countLines (s : State) (a n : Nat) : fusesAndCarters (countLines s a n) = fusesAndCarters s := by
  unfold countLines
  exact keeps_else (keeps_ite rfl (keeps_ite rfl rfl))

theorem fusesAndCarters_loadSpan (s : State) (a n : Nat) : fusesAndCarters (loadSpan s a n).1 = fusesAndCarters s :=
  fusesAndCarters_of_behindMemory (behindMemory_loadWords s s (n + 1) a n)

theorem fusesAndCarters_storeBits (s : State) (xs : List BitPiece) : fusesAndCarters (storeBits s xs).1 = fusesAndCarters s :=
  fusesAndCarters_of_behindMemory (r := s) <|
    foldl_keeps (fun acc : State × List Nat => behindMemory s acc.1) _
      (fun acc kw => behindMemory_storePiece s acc.1 kw.1 kw.2 _) _ (s, [])

theorem fusesAndCarters_raiseFault (s : State) (a : FaultArgs) (r : BitVec 256) :
    fusesAndCarters (raiseFault s a r) = fusesAndCarters s := by
  unfold raiseFault
  exact keeps_else ((fusesAndCarters_raise _ _ rfl).trans (keeps_ite rfl rfl))

theorem fusesAndCarters_runFault (s : State) (c slot : Nat) (r : Run) (kind i n addr : Nat) :
    fusesAndCarters (runFault s c slot r kind i n addr) = fusesAndCarters s := by
  unfold runFault logFault; dsimp only; split
  · rfl
  · rfl
  · rfl
  · split
    · rfl
    · unfold logFault.add
      exact (fusesAndCarters_raiseFault _ _ _).trans ((fusesAndCarters_trace _ _ _ _ _ _).trans (keeps_ite rfl rfl))

theorem fusesAndCarters_readElems (s : State) (c : Nat) (r : Run) (t : Xfer) :
    fusesAndCarters (readElems s c r t).1 = fusesAndCarters s := by
  unfold readElems
  extract_lets places base
  have hload : fusesAndCarters (loadSpan (countLines s base (t.hi - base)) base (t.hi - base)).1 = fusesAndCarters s :=
    (fusesAndCarters_loadSpan _ _ _).trans (fusesAndCarters_countLines s _ _)
  rcases hl : loadSpan (countLines s base (t.hi - base)) base (t.hi - base) with ⟨s1, bs⟩
  rw [hl] at hload
  dsimp only; split
  · exact (foldl_keeps fusesAndCarters _ (fun s _ => fusesAndCarters_runFault s _ _ _ _ _ _ _) _ s1).trans hload
  · exact (foldl_keeps fusesAndCarters _ (fun s _ => keeps_then (fusesAndCarters_runFault s _ _ _ _ _ _ _)) _ s1).trans hload

theorem fusesAndCarters_writable (s : State) (a : Nat) : fusesAndCarters (writable s a).1 = fusesAndCarters s := by
  unfold writable; split
  · rfl
  · exact fusesAndCarters_of_behindMemory (behindMemory_translate s s a)

theorem fusesAndCarters_writeElems (s : State) (c : Nat) (r : Run) (t : Xfer) :
    fusesAndCarters (writeElems s c r t) = fusesAndCarters s := by
  unfold writeElems
  have hfirst := fusesAndCarters_writable s t.lo
  rcases hw : writable s t.lo with ⟨s1, ok1⟩
  rw [hw] at hfirst
  dsimp only
  generalize hboth : (if t.lo / 2 ^ 21 = (t.hi - 1) / 2 ^ 21 then (s1, ok1) else writable s1 (t.hi - 1)) = both
  have hlast : fusesAndCarters both.1 = fusesAndCarters s := by
    rw [← hboth]
    split
    · exact hfirst
    · exact (fusesAndCarters_writable s1 _).trans hfirst
  obtain ⟨s2, ok2⟩ := both
  dsimp only at hlast ⊢; split
  · exact (foldl_keeps fusesAndCarters _ (fun s _ => fusesAndCarters_runFault s _ _ _ _ _ _ _) _ s2).trans hlast
  · exact (fusesAndCarters_storeBits _ _).trans ((fusesAndCarters_countLines s2 _ _).trans hlast)

theorem carterAt_of_fusesAndCarters {s t : State} (h : fusesAndCarters t = fusesAndCarters s) (c : Nat) : carterAt t c = carterAt s c :=
  congrArg (fun v : FuseSt × List (Nat × CarterSt) => mapGet v.2 c CarterSt.idle) h

/-- A state with fuses f and rising keys in which carter c has n transfers outstanding. -/
structure Outstands (f : FuseSt) (c n : Nat) (s : State) : Prop where
  fuses : s.fuses = f
  rising : risingKeys s.eng.carters = true
  outstanding : outstanding (carterAt s c) = n

section
variable {f : FuseSt} {c n : Nat} {s t : State}

theorem Outstands.of_kept (h : Outstands f c n s) (hkept : TransfersKept s t) : Outstands f c n t :=
  ⟨hkept.fuses.trans h.fuses, hkept.rising,
    (congrArg (fun xs => (xs.filter fun k : Xfer => k.data.isNone).length) (hkept.xfers c)).trans h.outstanding⟩

theorem Outstands.withCarter (h : Outstands f c n s) (x : CarterSt) : Outstands f c (Machine.outstanding x) (setCarter s c x) :=
  ⟨h.fuses, setCarter_rising h.rising c x, by simp⟩

theorem Outstands.withRun (h : Outstands f c n s) (slot op : Nat) (u : Option UnitId) (g : Run → Run) :
    Outstands f c n (updRun s c slot op u g) := h.of_kept (transfersKept_setRuns h.rising c slot _)

end

theorem outstanding_erase_of_isSome (x : CarterSt) {t : Xfer} (h : t.data.isSome = true) :
    outstanding { x with xfers := x.xfers.erase t } = outstanding x := by
  unfold outstanding
  rw [← List.erase_filter, List.erase_of_not_mem]
  simp [Option.isNone_iff_eq_none, Option.isSome_iff_ne_none.1 h]

theorem outstanding_erase_lt (x : CarterSt) {t : Xfer} (h : t ∈ x.xfers.filter fun k => k.data.isNone) :
    outstanding { x with xfers := x.xfers.erase t } < outstanding x := by
  unfold outstanding
  rw [← List.erase_filter, List.length_erase_of_mem h]
  have := List.length_pos_of_mem h
  omega

/-- A transfer that gets its data is outstanding no more, nor is one like it. -/
theorem outstanding_map_data_lt (x : CarterSt) {t : Xfer} (es : List Elem) (h : t ∈ x.xfers.filter fun k => k.data.isNone) :
    outstanding { x with xfers := x.xfers.map fun u => if u == t then { u with data := some es } else u } < outstanding x := by
  have hcount : outstanding { x with xfers := x.xfers.map fun u => if u == t then { u with data := some es } else u } =
      (x.xfers.filter fun k => k.data.isNone).countP (· != t) := by
    unfold outstanding
    rw [← List.countP_eq_length_filter, List.countP_map, List.countP_filter]
    refine List.countP_congr fun u _ => ?_
    by_cases hu : u = t <;> simp [hu]
  rw [hcount]
  refine Nat.lt_of_le_of_ne List.countP_le_length fun hall => ?_
  have hne := List.countP_eq_length.1 hall t h
  exact absurd rfl (bne_iff_ne.1 hne)

/-- What is delivered in order was outstanding no more (R213). -/
theorem deliverReady_outstands {f : FuseSt} {c n : Nat} (fuel : Nat) {s : State} (slot : Nat) (h : Outstands f c n s) :
    Outstands f c n (deliverReady fuel s c slot) := by
  induction fuel generalizing s with
  | zero => exact h
  | succ fuel ih =>
    unfold deliverReady; dsimp only; split
    next t hnext =>
      have hdata : t.data.isSome = true := by
        have := List.find?_some hnext
        simp only [Bool.and_eq_true] at this
        exact this.1.2
      have herased := h.withCarter { carterAt s c with xfers := (carterAt s c).xfers.erase t }
      rw [outstanding_erase_of_isSome _ hdata, h.outstanding] at herased
      exact ih (herased.withRun _ _ _ _)
    · exact h

/-- A transfer that is no write before its turn leaves the carter with fewer outstanding. -/
theorem completeXfer_outstands {s : State} (hrise : risingKeys s.eng.carters = true) {c i : Nat} {x : Xfer}
    (hx : ((carterAt s c).xfers.filter fun k => k.data.isNone)[i]? = some x)
    (hturn : x.write = true → lineBusy s x.lo x.hi x.seq = false) :
    ∃ n < outstanding (carterAt s c), Outstands s.fuses c n (completeXfer s c i) := by
  have hmem := List.mem_of_getElem? hx
  have hstart : Outstands s.fuses c (outstanding (carterAt s c)) s := ⟨rfl, hrise, rfl⟩
  have hgo : (x.write && lineBusy s x.lo x.hi x.seq) = false := by
    cases hw : x.write with
    | false => rfl
    | true => exact hturn hw
  unfold completeXfer
  simp only [hx, hgo, Bool.false_eq_true, if_false]
  split
  · exact ⟨_, outstanding_erase_lt _ hmem, hstart.withCarter _⟩
  next r hrun =>
    split
    · have hcore := fusesAndCarters_writeElems s c r x
      rw [carterAt_of_fusesAndCarters hcore]
      exact ⟨_, outstanding_erase_lt _ hmem, ((hstart.of_kept (.of_eq hrise hcore)).withCarter _).withRun _ _ _ _⟩
    · have hcore := fusesAndCarters_readElems s c r x
      rcases hread : readElems s c r x with ⟨s1, es⟩
      rw [hread] at hcore
      dsimp only
      rw [carterAt_of_fusesAndCarters hcore]
      exact ⟨_, outstanding_map_data_lt _ es hmem, deliverReady_outstands 64 _ ((hstart.of_kept (.of_eq hrise hcore)).withCarter _)⟩

/-- What O52 says of a completed transfer holds where the keys of the carter list rise. -/
theorem transferComplete_outstanding_lt {c : Fin 768} {i : Nat} {s : State} {x : Xfer} (hrun : enginesRun s = true)
    (hrise : risingKeys s.eng.carters = true) (hx : ((carterAt s c.val).xfers.filter fun k => k.data.isNone)[i]? = some x)
    (hturn : x.write = true → lineBusy s x.lo x.hi x.seq = false) :
    ∃ t, exec (.transferComplete c i) s = .next t ∧ outstanding (carterAt t c.val) < outstanding (carterAt s c.val) ∧
      t.fuses = s.fuses ∧ risingKeys t.eng.carters = true := by
  obtain ⟨n, hn, hdone⟩ := completeXfer_outstands hrise hx hturn
  have hafter := hdone.of_kept (transfersKept_afterStream hdone.rising c.val)
  exact ⟨_, execTransferComplete_runs hrun, Nat.lt_of_le_of_lt (Nat.le_of_eq hafter.outstanding) hn, hafter.fuses, hafter.rising⟩

/-- The state of the refutation without its second entry for carter 0. -/
def carterListedOnce : State :=
  { carterListedTwice with eng := { carterListedTwice.eng with carters := carterListedTwice.eng.carters.take 1 } }

/-- There the completion leaves no transfer outstanding. -/
theorem witness_transferComplete_outstanding_lt :
    ∃ t, exec (.transferComplete 0 0) carterListedOnce = .next t ∧ outstanding (carterAt t 0) < 1 := by
  obtain ⟨t, hexec, hfewer, _⟩ := transferComplete_outstanding_lt (c := 0) (i := 0) (s := carterListedOnce) (x := pendingRead 0)
    (by decide) (by decide) (by decide) fun hwrite => absurd hwrite (by decide)
  exact ⟨t, hexec, hfewer⟩

end Sys2Proof.Machine
end

section
/-! O22: the rows that add an object to the job. For each command, what it leaves where its reply refuses nothing; for TENSOR_CREATE
also where the page map lies, for its entries are the only bytes of memory that the command writes. -/

namespace Sys2Proof.Machine

/-! ### The page map lies above LPDDR6 (R234, R236) -/

theorem storeBase_le_storeOf (g : Nat) : storeBase ≤ storeOf g := Nat.le_add_right _ _

/-- Every page map entry lies in a guild store. -/
theorem storeBase_le_of_entryAddr {a ea : Nat} (h : entryAddr a = some ea) : storeBase ≤ ea := by
  have hstore : ∀ g off i, storeBase ≤ storeOf g + off + i := fun g off i =>
    Nat.le_trans (storeBase_le_storeOf g) (Nat.le_trans (Nat.le_add_right _ off) (Nat.le_add_right _ i))
  unfold entryAddr at h
  split at h
  · exact Option.some.inj h ▸ hstore _ _ _
  · split at h
    · exact Option.some.inj h ▸ hstore _ _ _
    · split at h
      · exact Option.some.inj h ▸ hstore _ _ _
      · exact absurd h nofun

/-! ### Bytes below an entry that is written (R237, R251) -/

/-- The data bytes of the memories. -/
def memData (s : State) : List Host.Cell := s.mem.data

theorem memData_raise (s : State) (e : EventArgs) (h : e.nmi = false) : memData (raise s e) = memData s :=
  congrArg MemSt.data (raise_mem s e h)

theorem memData_raiseUnc (s : State) (key index loc : Nat) : memData (raiseUnc s key index loc) = memData s := by
  unfold raiseUnc
  exact keeps_else (memData_raise _ _ rfl)

theorem memData_raiseCe (s : State) (key : Nat) : memData (raiseCe s key) = memData s := by
  unfold raiseCe
  exact keeps_then (view := memData) (memData_raise _ _ rfl)

/-- A memory error record changes no data (R251, R252). -/
theorem memData_logMem (s : State) (p found : Nat) (unc : Bool) (x : WordRead) : memData (logMem s p found unc x) = memData s := by
  unfold logMem
  exact (keeps_ite (memData_raiseUnc _ _ _ _) (memData_raiseCe _ _)).trans
    ((congrArg MemSt.data (trace_mem _ _ _ _ _ _)).trans (keeps_then (view := memData) rfl))

theorem byteOf_eq_of_memData {s t : State} (h : memData t = memData s) (p : Nat) : byteOf t p = byteOf s p :=
  congrArg (mapGet · p 0) h

section
variable {p w ea : Nat}

theorem byteOf_putWord_below (s : State) (data md : Nat) (h : p < w) : byteOf (putWord s w data md) p = byteOf s p :=
  (mapGet_cellsPut (bytesOfNat 16 data) s.mem.data w p).trans (if_neg fun hin => Nat.not_le_of_lt h hin.1)

/-- A lookup mends a damaged word of the map in place, and no byte below it. -/
theorem byteOf_lookupEntry_below (s : State) (h : p < ea / 16 * 16) : byteOf (lookupEntry s ea).1 p = byteOf s p := by
  unfold lookupEntry; dsimp only; split
  · rfl
  · rfl
  · exact (byteOf_eq_of_memData (memData_logMem _ _ _ _ _) p).trans (byteOf_putWord_below s _ _ h)
  · split
    · rfl
    · exact byteOf_eq_of_memData (memData_logMem _ _ _ _ _) p

theorem byteOf_writeEntry_below (s : State) (e : Nat) (h : p < ea / 16 * 16) : byteOf (writeEntry s ea e) p = byteOf s p := by
  unfold writeEntry writeEntryAs writeWord
  exact (byteOf_putWord_below _ _ _ h).trans (byteOf_lookupEntry_below s h)

/-- LPDDR6 lies below every word of the page map. -/
theorem lt_entryWord {a : Nat} (h : entryAddr a = some ea) (hp : p < 2 ^ 40) : p < ea / 16 * 16 := by
  have hstore := storeBase_le_of_entryAddr h
  unfold storeBase at hstore
  omega

end

/-! ### TENSOR_CREATE (R284, R355, R408, R409) -/

/-- An entry written where the page map keeps the page of address a, if it has one (R236). -/
def mapPageAt (s : State) (a e : Nat) : State :=
  match entryAddr a with
  | some ea => writeEntry s ea e
  | none => s

theorem mapPageAt_some (s : State) {a ea : Nat} (e : Nat) (h : entryAddr a = some ea) : mapPageAt s a e = writeEntry s ea e := by
  unfold mapPageAt; rw [h]

theorem mapPageAt_none (s : State) {a : Nat} (e : Nat) (h : entryAddr a = none) : mapPageAt s a e = s := by
  unfold mapPageAt; rw [h]

theorem behindMemory_mapPageAt (r s : State) (a e : Nat) : behindMemory r (mapPageAt s a e) = behindMemory r s := by
  unfold mapPageAt; split
  · exact behindMemory_writeEntry r s _ _
  · rfl

theorem byteOf_mapPageAt {p : Nat} (hp : p < 2 ^ 40) (s : State) (a e : Nat) : byteOf (mapPageAt s a e) p = byteOf s p := by
  unfold mapPageAt; split
  next ea hea => exact byteOf_writeEntry_below s _ (lt_entryWord hea hp)
  · rfl

/-- The entry of one page of a tensor written: the page, its home and its frame (R235, R238). -/
def mapPage (d : BitVec 512) (s : State) (page : Nat × Nat × Nat) : State :=
  mapPageAt s (page.1 * 0x200000) (pmEntry false (tdMethod d) false page.2.1 page.2.2 0)

/-- The tensor added to the job, and its pages to the page map. -/
def createTensor (s : State) (d : BitVec 512) (pages : List (Nat × Nat × Nat)) : State :=
  pages.foldl (mapPage d) (setTensor s (fld d 31 0) (newTensor d))

theorem behindMemory_createTensor (r s : State) (d : BitVec 512) (pages : List (Nat × Nat × Nat)) :
    behindMemory r (createTensor s d pages) = behindMemory r (setTensor s (fld d 31 0) (newTensor d)) :=
  foldl_keeps (behindMemory r) (mapPage d) (fun s _ => behindMemory_mapPageAt r s _ _) pages _

theorem byteOf_createTensor {p : Nat} (hp : p < 2 ^ 40) (s : State) (d : BitVec 512) (pages : List (Nat × Nat × Nat)) :
    byteOf (createTensor s d pages) p = byteOf s p :=
  foldl_keeps (byteOf · p) (mapPage d) (fun s _ => byteOf_mapPageAt hp s _ _) pages _

/-- TENSOR_CREATE is refused, or creates the tensor on the pages placed for it (R238, R409). What each choice looks at is made a
variable before the case split: `split` would have the kernel compute with the tensor's address in unary. -/
theorem cmdTensorCreate_cases (s : State) (r : Req) :
    (∃ rep, rep.status ≠ 0 ∧ cmdTensorCreate s r = (s, rep)) ∨
      ∃ pages, placePages s (BitVec.ofNat 512 (leAt r.payload 0 64)) = some pages ∧
        cmdTensorCreate s r = (createTensor s (BitVec.ofNat 512 (leAt r.payload 0 64)) pages, done []) := by
  unfold cmdTensorCreate
  dsimp only
  generalize tensorBad s _ = bad
  cases bad with
  | some row => exact .inl ⟨_, (by decide : REFUSE_TENSOR ≠ 0), rfl⟩
  | none =>
    generalize placePages s _ = placed
    cases placed with
    | none => exact .inl ⟨_, (by decide : REFUSE_TENSOR_SPACE ≠ 0), rfl⟩
    | some pages =>
      generalize sealSpaceBad _ _ = bad
      cases bad with
      | some row => exact .inl ⟨_, (by decide : REFUSE_SEAL_SPACE ≠ 0), rfl⟩
      | none =>
        refine .inr ⟨pages, rfl, congrArg (·, done []) ?_⟩
        refine congrArg (fun f => List.foldl f _ pages) (funext fun s => funext fun page => ?_)
        unfold mapPage
        generalize page.1 * 0x200000 = a
        cases hplace : entryAddr a with
        | some ea => exact (mapPageAt_some s _ hplace).symm
        | none => exact (mapPageAt_none s _ hplace).symm

/-- A TENSOR_CREATE that is carried out creates the tensor. -/
theorem cmdTensorCreate_carried {s : State} {r : Req} (h : (cmdTensorCreate s r).2.status = 0) :
    ∃ pages, (cmdTensorCreate s r).1 = createTensor s (BitVec.ofNat 512 (leAt r.payload 0 64)) pages := by
  rcases cmdTensorCreate_cases s r with ⟨rep, hrefused, heq⟩ | ⟨pages, _, heq⟩ <;> rw [heq] at h ⊢
  · exact absurd h hrefused
  · exact ⟨pages, rfl⟩

theorem tensorOf_setTensor (s : State) (h k : Nat) (x : Tensor) :
    tensorOf (setTensor s h x) k = if h = k then some x else tensorOf s k := mapFind_mapSet s.job.tensors h k x

/-! ### WAYBILL_LOAD (R211, R219, R411) -/

/-- The state with an image under handle h. -/
def storeWaybill (s : State) (h : Nat) (img : List Byte) : State :=
  { s with job := { s.job with waybills := mapSet s.job.waybills h img } }

/-- A WAYBILL_LOAD that is carried out stores the image that follows its handle. -/
theorem cmdWaybillLoad_carried {s : State} {r : Req} (h : (cmdWaybillLoad s r).2.status = 0) :
    (cmdWaybillLoad s r).1 = storeWaybill s (leAt r.payload 0 2) (r.payload.drop 8) := by
  revert h
  unfold cmdWaybillLoad
  dsimp only
  split
  · exact fun h => absurd h (by decide : REFUSE_WAYBILL ≠ 0)
  split
  · exact fun h => absurd h (by decide : REFUSE_STREAM_CYCLE ≠ 0)
  · exact fun _ => rfl

/-! ### PLAN_LOAD (R204, R411 to R413) -/

/-- The entries in the bytes that PLAN_LOAD reads at ENTRY_ADDR (R411). -/
def planEntries (bs : List Byte) (n : Nat) : List Entry := (List.range n).map fun i => BitVec.ofNat 2048 (leAt bs (256 * i) 256)

theorem planEntries_length (bs : List Byte) (n : Nat) : (planEntries bs n).length = n := by simp [planEntries]

/-- The state with these entries under plan p, not yet admitted (R204, R412). -/
def storePlan (s : State) (p : Nat) (es : List Entry) : State :=
  { s with job := { s.job with plans := mapSet s.job.plans p ⟨es, false, 0, 0, [], []⟩ } }

/-- What refuses an entry is a refusal (R413). -/
theorem entryOwn_status {s : State} {es : List Entry} {p i : Nat} {rep : Reply} (h : entryOwn s es p i = some rep) :
    rep.status ≠ 0 := by
  unfold entryOwn at h
  dsimp only at h
  split at h
  · exact Option.some.inj h ▸ (by decide : REFUSE_PLAN ≠ 0)
  · split at h
    · obtain ⟨_, _, rfl⟩ := Option.map_eq_some_iff.1 h
      exact (by decide : REFUSE_LOOM_BLOCK ≠ 0)
    · split at h
      · exact Option.some.inj h ▸ (by decide : REFUSE_VECTOR_OP ≠ 0)
      · exact absurd h nofun
    · obtain ⟨_, _, rfl⟩ := Option.map_eq_some_iff.1 h
      exact (by decide : REFUSE_COLL_DESC ≠ 0)

/-- A PLAN_LOAD that is carried out stores the NOPS entries that it read at ENTRY_ADDR. -/
theorem cmdPlanLoad_carried {s : State} {r : Req} (h : (cmdPlanLoad s r).2.status = 0) :
    ∃ s1 bs, fetchBytes s (leAt r.payload 8 8) (256 * leAt r.payload 2 2) = (s1, some bs) ∧
      (cmdPlanLoad s r).1 = storePlan s1 (byteAt r.payload 0).toNat (planEntries bs (leAt r.payload 2 2)) := by
  revert h
  unfold cmdPlanLoad
  dsimp only
  rcases fetchBytes s (leAt r.payload 8 8) (256 * leAt r.payload 2 2) with ⟨s1, _ | bs⟩
  · exact fun h => absurd h (by decide : DMA_FAULT ≠ 0)
  dsimp only
  split
  next rep hrefused =>
    obtain ⟨i, _, hentry⟩ := List.exists_of_findSome?_eq_some hrefused
    exact fun h => absurd h (entryOwn_status hentry)
  · exact fun _ => ⟨s1, bs, rfl, rfl⟩

theorem behindMemory_fetchBytes (r s : State) (a n : Nat) : behindMemory r (fetchBytes s a n).1 = behindMemory r s :=
  behindMemory_loadWords r s (n + 1) a n

/-! ### The rows -/

section
variable {rq : MbReq} {s : State}

theorem granted_status {op : Nat} (hg : granted op rq s = true) : (outcome op rq s).2.status = 0 := by
  simp only [granted, Bool.and_eq_true, beq_iff_eq] at hg
  obtain ⟨⟨_, hstatus⟩, _⟩ := hg
  exact hstatus

/-- TENSOR_CREATE adds its tensor, and changes no byte of LPDDR6. -/
theorem carriedOut_tensorCreate (hg : granted 0x0020 rq s = true) :
    carriedOut (.tensorCreate rq) 0x0020 rq s fun t =>
      let d := BitVec.ofNat 512 (leAt rq.payload 0 64)
      tensorOf t (fld d 31 0) = some (newTensor d) ∧ (∀ k, k ≠ fld d 31 0 → tensorOf t k = tensorOf s k) ∧
      t.job = { s.job with tensors := t.job.tensors } ∧ t.pow = s.pow ∧ t.fab = s.fab ∧ t.step = s.step ∧
      ∀ p < 2 ^ 40, byteOf t p = byteOf s p := by
  refine carriedOut_of_granted (by decide) rfl hg fun t ht => ?_
  obtain ⟨pages, hout⟩ : ∃ pages, (outcome 0x0020 rq s).1 = createTensor (begun 0x0020 rq s) _ pages :=
    cmdTensorCreate_carried (granted_status hg)
  rw [hout] at ht
  dsimp only [asReq] at ht ⊢
  generalize BitVec.ofNat 512 (leAt rq.payload 0 64) = d at ht ⊢
  have hmemory : behindMemory s t = behindMemory s (setTensor s (fld d 31 0) (newTensor d)) :=
    (behindMemory_of_behindHost ht).trans ((behindMemory_createTensor s _ d pages).trans
      (view_of_mask (behindHost_begun 0x0020 rq s s) (fun x => behindMemory s (setTensor x (fld d 31 0) (newTensor d))) fun _ => rfl))
  have hjob := view_of_mask hmemory State.job fun _ => rfl
  have htensor : ∀ k, tensorOf t k = if fld d 31 0 = k then some (newTensor d) else tensorOf s k := fun k =>
    (view_of_mask hmemory (tensorOf · k) fun _ => rfl).trans (tensorOf_setTensor s _ k _)
  refine ⟨(htensor _).trans (if_pos rfl), fun k hk => (htensor k).trans (if_neg (Ne.symm hk)), by rw [hjob]; rfl,
    view_of_mask hmemory State.pow fun _ => rfl, view_of_mask hmemory State.fab fun _ => rfl,
    view_of_mask hmemory State.step fun _ => rfl, fun p hp => ?_⟩
  calc byteOf t p
    _ = byteOf (createTensor (begun 0x0020 rq s) d pages) p := view_of_mask ht (byteOf · p) fun _ => rfl
    _ = byteOf (begun 0x0020 rq s) p := byteOf_createTensor hp _ d pages
    _ = byteOf s p := view_of_mask (behindHost_begun 0x0020 rq s s) (byteOf · p) fun _ => rfl

/-- WAYBILL_LOAD changes nothing behind the host interface but the list of images. -/
theorem carriedOut_waybillLoad (hg : granted 0x0028 rq s = true) :
    carriedOut (.waybillLoad rq) 0x0028 rq s fun t =>
      behindHost s t = { s with job := { s.job with
        waybills := mapSet s.job.waybills (leAt rq.payload 0 2) (rq.payload.drop 8) } } := by
  refine carriedOut_of_granted (by decide) rfl hg fun t ht => ?_
  have hout : (outcome 0x0028 rq s).1 = storeWaybill (begun 0x0028 rq s) _ _ := cmdWaybillLoad_carried (granted_status hg)
  rw [ht, hout]
  exact congrArg (storeWaybill · _ _) (behindHost_begun 0x0028 rq s s)

/-- PLAN_LOAD stores NOPS entries under the plan's number, not admitted, and changes nothing else of the job. -/
theorem carriedOut_planLoad (hg : granted 0x0029 rq s = true) :
    carriedOut (.planLoad rq) 0x0029 rq s fun t =>
      ∃ x, mapFind t.job.plans (byteAt rq.payload 0).toNat = some x ∧ x.entries.length = leAt rq.payload 2 2 ∧ x.admitted = false ∧
        (∀ p, p ≠ (byteAt rq.payload 0).toNat → mapFind t.job.plans p = mapFind s.job.plans p) ∧
        t.job = { s.job with plans := t.job.plans } ∧ t.pow = s.pow ∧ t.fab = s.fab ∧ t.step = s.step := by
  refine carriedOut_of_granted (by decide) rfl hg fun t ht => ?_
  obtain ⟨s1, bs, hfetch, hout⟩ := cmdPlanLoad_carried (r := asReq 0x0029 rq) (granted_status hg)
  have hread : behindMemory s s1 = behindMemory s s := by
    have hfetched := behindMemory_fetchBytes s (begun 0x0029 rq s) (leAt (asReq 0x0029 rq).payload 8 8)
      (256 * leAt (asReq 0x0029 rq).payload 2 2)
    rw [hfetch] at hfetched
    exact hfetched.trans (behindMemory_of_behindHost (behindHost_begun 0x0029 rq s s))
  have hmemory : behindMemory s t = behindMemory s (storePlan s (byteAt rq.payload 0).toNat (planEntries bs (leAt rq.payload 2 2))) :=
    (behindMemory_of_behindHost (ht.trans (congrArg (behindHost s) hout))).trans
      (view_of_mask hread (fun x => behindMemory s (storePlan x _ _)) fun _ => rfl)
  have hjob := view_of_mask hmemory State.job fun _ => rfl
  have hplan : ∀ p, mapFind t.job.plans p = if (byteAt rq.payload 0).toNat = p then
      some ⟨planEntries bs (leAt rq.payload 2 2), false, 0, 0, [], []⟩ else mapFind s.job.plans p := fun p => by
    rw [hjob]; exact mapFind_mapSet s.job.plans _ p _
  exact ⟨_, (hplan _).trans (if_pos rfl), planEntries_length bs _, rfl, fun p hp => (hplan p).trans (if_neg (Ne.symm hp)),
    by rw [hjob]; rfl, view_of_mask hmemory State.pow fun _ => rfl, view_of_mask hmemory State.fab fun _ => rfl,
    view_of_mask hmemory State.step fun _ => rfl⟩

end

/-- Settles O22: what each of the three commands leaves where its reply refuses nothing (`cmdTensorCreate_carried`,
`cmdWaybillLoad_carried`, `cmdPlanLoad_carried`), seen through the frame of the memories. -/
theorem objectsCreated : Obligations.ObjectsCreated :=
  ⟨fun _ _ => carriedOut_tensorCreate, fun _ _ => ⟨carriedOut_waybillLoad, carriedOut_planLoad⟩⟩

end Sys2Proof.Machine
end

section
/-! O17, O19: the changes that wait for a boundary (R401), and those that act at once while no step runs. For each command, what it
leaves where its reply refuses nothing. -/

namespace Sys2Proof.Machine

/-- A granted row that acts on the state as f does, f being about nothing of the host interface, leaves f's state behind it. -/
theorem carriedOut_acts {c : Instr} {op : Nat} {rq : MbReq} {s : State} (f : State → State) (hop : op < 65536)
    (hexec : exec c s = .next (mailboxRow op (commandOf op) rq s)) (hg : granted op rq s = true)
    (hout : (outcome op rq s).1 = f (begun op rq s)) (hf : ∀ x, behindHost s (f x) = f (behindHost s x)) :
    carriedOut c op rq s fun t => behindHost s t = f s :=
  carriedOut_of_granted hop hexec hg fun t ht => by
    rw [ht, hout, hf, behindHost_begun, behindHost_self]

/-! ### The check of an operating point and a cap (R416) -/

theorem planFails_code {p : Plan} {o cap : Nat} {x : Nat × Nat × Nat} (h : planFails p o cap = some x) : x.1 ≠ 0 := by
  unfold planFails at h
  dsimp only at h
  split at h
  · cases h; exact (by decide : REFUSE_ADMIT_TIME ≠ 0)
  · split at h
    · cases h; exact (by decide : REFUSE_ADMIT_ENERGY ≠ 0)
    · split at h
      · cases h; exact (by decide : REFUSE_ADMIT_POWER ≠ 0)
      · cases h

theorem admitRefusal_status {s t : State} {plans : List (Nat × Plan)} {o cap : Nat} {rep : Reply}
    (h : admitRefusal s plans o cap = (t, some rep)) : rep.status ≠ 0 := by
  unfold admitRefusal at h
  split at h
  · cases h
  next p code need allowed hfail =>
    obtain ⟨e, -, he⟩ := List.exists_of_findSome?_eq_some hfail
    obtain ⟨x, hx, heq⟩ := Option.map_eq_some_iff.1 he
    cases heq
    cases h
    exact planFails_code hx

/-- A change is admitted, the state staying as it was, or refused by a status. -/
theorem checkChange_cases (s : State) (o cap : Nat) (force : Bool) :
    checkChange s o cap force = (s, none, (checkChange s o cap force).2.2) ∨
      ∃ t rep, checkChange s o cap force = (t, some rep, false) ∧ rep.status ≠ 0 := by
  unfold checkChange
  split
  · exact .inl rfl
  next t rep hrefused =>
    cases force with
    | true => exact .inl rfl
    | false => exact .inr ⟨t, rep, rfl, admitRefusal_status hrefused⟩

/-- A change is forced where FORCE is set and an admitted plan fails. -/
theorem checkChange_forced (s : State) (o cap : Nat) (force : Bool) :
    (checkChange s o cap force).2.2 =
      (force && ((admittedPlans s).findSome? fun e => (planFails e.2 o cap).map fun x => (e.1, x)).isSome) := by
  unfold checkChange admitRefusal
  cases (admittedPlans s).findSome? fun e => (planFails e.2 o cap).map fun x => (e.1, x) <;> cases force <;> rfl

theorem checkChange_forced_begun (op : Nat) (rq : MbReq) (s : State) (o cap : Nat) (force : Bool) :
    (checkChange (begun op rq s) o cap force).2.2 = (checkChange s o cap force).2.2 := by
  simp only [checkChange_forced, admittedPlans, begun_job]

/-! ### What each command leaves where it refuses nothing (R265, R300, R401, R416, R425) -/

section
variable {s : State} {r : Req}

theorem cmdOptset_carried (h : (cmdOptset s r).2.status = 0) :
    (cmdOptset s r).1 = if stepRuns s then putDue s (.optset (byteAt r.payload 0).toNat (BitVec.ofNat 256 (leAt r.payload 8 32)))
      else applyOptset s (byteAt r.payload 0).toNat (BitVec.ofNat 256 (leAt r.payload 8 32)) := by
  unfold cmdOptset at h ⊢
  dsimp only at h ⊢
  split at h
  · cases h
  · split <;> rfl

theorem cmdPin_carried (h : (cmdPin s r).2.status = 0) :
    (cmdPin s r).1 = putDue s (.pin (leAt r.payload 0 2) (byteAt r.payload 2).toNat (byteAt r.payload 3).toNat) := by
  unfold cmdPin at h ⊢
  dsimp only at h ⊢
  split at h
  · cases h
  · split at h
    · cases h
    next hwidth => rw [if_neg hwidth]

theorem cmdOverride_carried (h : (cmdOverride s r).2.status = 0) :
    (cmdOverride s r).1 = putDue s (if byteAt r.payload 2 == 1 then .overrideRemove (leAt r.payload 0 2)
      else .overrideSet (leAt r.payload 0 2) (BitVec.ofNat 128 (leAt r.payload 8 16))) := by
  unfold cmdOverride at h ⊢
  dsimp only at h ⊢
  split at h
  · cases h
  · rfl

theorem cmdOpSet_carried {o : Nat} {forced : Bool} (ho : (byteAt r.payload 0).toNat = o)
    (hforced : (checkChange s o s.pow.cap (byteAt r.payload 1 == 1)).2.2 = forced) (h : (cmdOpSet s r).2.status = 0) :
    (cmdOpSet s r).1 = if stepRuns s then putDue s (.opSet o forced) else settlePoint (applyOp s o forced) true := by
  subst ho hforced
  unfold cmdOpSet at h ⊢
  dsimp only at h ⊢
  rcases checkChange_cases s (byteAt r.payload 0).toNat s.pow.cap (byteAt r.payload 1 == 1) with
    hadmitted | ⟨t, rep, hrefused, hstatus⟩
  · rw [hadmitted]
    dsimp only
    split <;> rfl
  · rw [hrefused] at h
    exact absurd h hstatus

theorem cmdPowerCap_carried {cap : Nat} {forced : Bool} (hcap : leAt r.payload 0 2 = cap)
    (hforced : (checkChange s s.pow.opNow cap (byteAt r.payload 2 == 1)).2.2 = forced) (h : (cmdPowerCap s r).2.status = 0) :
    (cmdPowerCap s r).1 = if stepRuns s then putDue s (.powerCap cap forced) else applyCap s cap forced := by
  subst hcap hforced
  unfold cmdPowerCap at h ⊢
  dsimp only at h ⊢
  rcases checkChange_cases s s.pow.opNow (leAt r.payload 0 2) (byteAt r.payload 2 == 1) with
    hadmitted | ⟨t, rep, hrefused, hstatus⟩
  · rw [hadmitted]
    dsimp only
    split <;> rfl
  · rw [hrefused] at h
    exact absurd h hstatus

end

/-- TENSOR_SET refuses a tensor that the job has not (R534). -/
theorem tensorOf_of_granted {rq : MbReq} {s : State} {k : Nat} (hg : granted 0x0021 (withAction rq 4 k) s = true) :
    ∃ x, tensorOf s (leAt rq.payload 0 4) = some x := by
  cases hx : tensorOf s (leAt rq.payload 0 4) with
  | some x => exact ⟨x, rfl⟩
  | none =>
    have hbegun : tensorOf (begun 0x0021 (withAction rq 4 k) s) (leAt (withAction rq 4 k).payload 0 4) = none := by
      rw [leAt_withAction_before]
      exact (congrArg (fun j : JobSt => mapFind j.tensors _) (begun_job _ _ _)).trans hx
    have hout : (outcome 0x0021 (withAction rq 4 k) s).2 = refuse REFUSE_TENSOR 534 5 0 := by
      show (cmdTensorSet _ _).2 = _
      simp only [cmdTensorSet, asReq, hbegun]
    have hstatus := granted_status hg
    rw [hout] at hstatus
    cases hstatus

/-! ### The rows that wait (R283, R401) -/

section
variable {rq : MbReq} {s : State}

/-- A granted row whose command leaves change b waiting changes nothing else behind the host interface. -/
theorem carriedOut_waits {c : Instr} {op : Nat} {b : BoundaryCmd} (hop : op < 65536)
    (hexec : exec c s = .next (mailboxRow op (commandOf op) rq s)) (hg : granted op rq s = true)
    (hout : (outcome op rq s).1 = putDue (begun op rq s) b) :
    carriedOut c op rq s fun t => behindHost s t = putDue s b :=
  carriedOut_acts (putDue · b) hop hexec hg hout fun _ => rfl

theorem stepRuns_begun (op : Nat) : stepRuns (begun op rq s) = s.step.active := congrArg StepSt.active (begun_step op rq s)

theorem outcome_tensorSet_waits {k : Nat} (hk : k < 256) (hg : granted 0x0021 (withAction rq 4 k) s = true) :
    (outcome 0x0021 (withAction rq 4 k) s).1 =
      putDue (begun 0x0021 (withAction rq 4 k) s) (tensorChange (withAction rq 4 k) k) := by
  obtain ⟨x, hx⟩ := tensorOf_of_granted hg
  rw [outcome_tensorSet hx hk hg]

theorem outcome_override {k : Nat} (hk : k < 256) (hg : granted 0x003A (withAction rq 2 k) s = true) :
    (outcome 0x003A (withAction rq 2 k) s).1 = putDue (begun 0x003A (withAction rq 2 k) s)
      (if k = 1 then .overrideRemove (leAt (withAction rq 2 k).payload 0 2)
        else .overrideSet (leAt (withAction rq 2 k).payload 0 2) (BitVec.ofNat 128 (leAt (withAction rq 2 k).payload 8 16))) := by
  have haction : (byteAt (withAction rq 2 k).payload 2 == 1) = decide (k = 1) := by
    rw [Bool.eq_iff_iff, beq_iff_eq, decide_eq_true_iff, ← BitVec.toNat_inj, byteAt_withAction rq 2 hk]
    rfl
  have hout : (outcome 0x003A (withAction rq 2 k) s).1 = _ := cmdOverride_carried (granted_status hg)
  simpa only [asReq, haction, decide_eq_true_eq] using hout

theorem outcome_optset (hg : granted 0x0022 rq s = true) :
    (outcome 0x0022 rq s).1 =
      if s.step.active then putDue (begun 0x0022 rq s) (.optset (byteAt rq.payload 0).toNat (BitVec.ofNat 256 (leAt rq.payload 8 32)))
      else applyOptset (begun 0x0022 rq s) (byteAt rq.payload 0).toNat (BitVec.ofNat 256 (leAt rq.payload 8 32)) := by
  rw [← stepRuns_begun (rq := rq) 0x0022]
  exact cmdOptset_carried (granted_status hg)

theorem outcome_opSet {o : Nat} {forced : Bool} (ho : (byteAt rq.payload 0).toNat = o)
    (hforced : (checkChange s o s.pow.cap (byteAt rq.payload 1 == 1)).2.2 = forced) (hg : granted 0x0040 rq s = true) :
    (outcome 0x0040 rq s).1 = if s.step.active then putDue (begun 0x0040 rq s) (.opSet o forced)
      else settlePoint (applyOp (begun 0x0040 rq s) o forced) true := by
  rw [← stepRuns_begun (rq := rq) 0x0040]
  refine cmdOpSet_carried (r := asReq 0x0040 rq) ho ?_ (granted_status hg)
  rw [begun_pow, checkChange_forced_begun]
  exact hforced

theorem outcome_powerCap {cap : Nat} {forced : Bool} (hcap : leAt rq.payload 0 2 = cap)
    (hforced : (checkChange s s.pow.opNow cap (byteAt rq.payload 2 == 1)).2.2 = forced) (hg : granted 0x0041 rq s = true) :
    (outcome 0x0041 rq s).1 = if s.step.active then putDue (begun 0x0041 rq s) (.powerCap cap forced)
      else applyCap (begun 0x0041 rq s) cap forced := by
  rw [← stepRuns_begun (rq := rq) 0x0041]
  refine cmdPowerCap_carried (r := asReq 0x0041 rq) hcap ?_ (granted_status hg)
  rw [begun_pow, checkChange_forced_begun]
  exact hforced

end

/-- Settles O17. Each row that answers a waiting change is one of R401's commands, and its command leaves that change, and nothing
else, behind (`outcome_tensorSet_waits`, `outcome_optset`, `cmdPin_carried`, `outcome_override`, `outcome_opSet`, `outcome_powerCap`). -/
theorem boundaryChangeWaits : Obligations.BoundaryChangeWaits := by
  intro c op rq b s hmail hwait hg
  unfold waitingChange at hwait
  split at hwait
  case h_1 => cases hmail; cases hwait; exact carriedOut_waits (by decide) rfl hg rfl
  case h_2 | h_3 | h_4 | h_5 | h_6 | h_7 =>
    cases hmail; cases hwait; exact carriedOut_waits (by decide) rfl hg (outcome_tensorSet_waits (by decide) hg)
  case h_8 =>
    cases hmail
    obtain ⟨hactive, hb⟩ := Option.ite_none_right_eq_some.1 hwait
    cases hb
    exact carriedOut_waits (by decide) rfl hg ((outcome_optset hg).trans (if_pos hactive))
  case h_9 => cases hmail; cases hwait; exact carriedOut_waits (by decide) rfl hg (cmdPin_carried (granted_status hg))
  case h_10 => cases hmail; cases hwait; exact carriedOut_waits (by decide) rfl hg (outcome_override (k := 0) (by decide) hg)
  case h_11 => cases hmail; cases hwait; exact carriedOut_waits (by decide) rfl hg (outcome_override (k := 1) (by decide) hg)
  case h_12 =>
    cases hmail
    obtain ⟨hactive, hb⟩ := Option.ite_none_right_eq_some.1 hwait
    cases hb
    exact carriedOut_waits (by decide) rfl hg ((outcome_opSet rfl rfl hg).trans (if_pos hactive))
  case h_13 =>
    cases hmail
    obtain ⟨hactive, hb⟩ := Option.ite_none_right_eq_some.1 hwait
    cases hb
    exact carriedOut_waits (by decide) rfl hg ((outcome_powerCap rfl rfl hg).trans (if_pos hactive))
  case h_14 => cases hwait

/-! ### The rows that act at once (R264, R450, R455, log 19) -/

/-- s with the host request o, at the operating point that the lowest limit then gives (R450). -/
def hostPointSet (s : State) (o : Nat) (forced ramp : Bool) : State :=
  { s with pow := { s.pow with opHost := o, opNow := min o (min s.pow.opPurse s.pow.opThermal), forced := forced, ramp := ramp } }

/-- Where a higher point may take effect too, the operating point becomes the lowest of the limits; only the ramp may change besides
(R449, R450). -/
theorem behindHost_settlePoint_free (r s : State) :
    ∃ ramp, behindHost r (settlePoint s true) =
      behindHost r { s with pow := { s.pow with opNow := targetPoint s, ramp := ramp } } := by
  unfold settlePoint
  dsimp only
  split
  · exact ⟨true, (behindHost_raise r _ _ rfl).trans (behindHost_trace r _ _ _ _ _ _)⟩
  next hsettled =>
    have hpoint : targetPoint s = s.pow.opNow := by
      simp only [true_and, not_or, Nat.not_lt] at hsettled
      exact Nat.le_antisymm hsettled.2 hsettled.1
    exact ⟨s.pow.ramp, by rw [hpoint]⟩

section
variable {rq : MbReq} {s : State}

theorem carriedOut_optsetWrite (hidle : s.step.active = false) (hg : granted 0x0022 rq s = true) :
    carriedOut (.optsetWrite rq) 0x0022 rq s fun t =>
      behindHost s t = applyOptset s (byteAt rq.payload 0).toNat (BitVec.ofNat 256 (leAt rq.payload 8 32)) :=
  carriedOut_acts (applyOptset · _ _) (by decide) rfl hg ((outcome_optset hg).trans (if_neg (by simp [hidle]))) fun _ => rfl

theorem carriedOut_powerCap (hidle : s.step.active = false) (hg : granted 0x0041 rq s = true) :
    ∃ forced, carriedOut (.powerCap rq) 0x0041 rq s fun t => behindHost s t = applyCap s (leAt rq.payload 0 2) forced :=
  ⟨_, carriedOut_acts (applyCap · _ _) (by decide) rfl hg ((outcome_powerCap rfl rfl hg).trans (if_neg (by simp [hidle]))) fun _ => rfl⟩

/-- OP_SET leaves the host request, and the point that it settles at. -/
theorem carriedOut_opSet (hidle : s.step.active = false) (hg : granted 0x0040 rq s = true) :
    carriedOut (.opSet rq) 0x0040 rq s fun t =>
      ∃ forced ramp, behindHost s t = hostPointSet s (byteAt rq.payload 0).toNat forced ramp := by
  refine carriedOut_of_granted (by decide) rfl hg fun t ht => ?_
  rw [outcome_opSet rfl rfl hg, if_neg (by simp [hidle])] at ht
  obtain ⟨ramp, hsettle⟩ := behindHost_settlePoint_free s (applyOp (begun 0x0040 rq s) _ _)
  exact ⟨_, ramp, (ht.trans hsettle).trans (congrArg (hostPointSet · _ _ ramp) (behindHost_begun 0x0040 rq s s))⟩

end

/-- Settles O19: with no step running the three commands act on the state itself (`outcome_optset`, `outcome_opSet`,
`outcome_powerCap`), and the operating point settles at the lowest limit (`behindHost_settlePoint_free`). -/
theorem changeAtOnce : Obligations.ChangeAtOnce := by
  intro rq s hidle
  refine ⟨carriedOut_optsetWrite hidle, fun hg => ?_, fun hg => ?_⟩
  · obtain ⟨t, hexec, hanswer, forced, ramp, ht⟩ := carriedOut_opSet hidle hg
    have hpow : t.pow = (hostPointSet s (byteAt rq.payload 0).toNat forced ramp).pow := (congrArg State.pow ht :)
    exact ⟨t, hexec, hanswer, congrArg PowerSt.opHost hpow, congrArg PowerSt.opNow hpow, by rw [ht, hpow]; rfl⟩
  · obtain ⟨forced, t, hexec, hanswer, ht⟩ := carriedOut_powerCap hidle hg
    have hpow : t.pow = (applyCap s (leAt rq.payload 0 2) forced).pow := (congrArg State.pow ht :)
    exact ⟨t, hexec, hanswer, congrArg PowerSt.cap hpow, by rw [ht, hpow]; rfl⟩

end Sys2Proof.Machine
end

section
/-! O53: the update mills. What a prologue, a record and a row of the age sweep leave of the mills' places, the prologues done and the
draw counters; everything else that they do (reads, faults, held records, statistics, the row copied for the seal) keeps these. -/

namespace Sys2Proof.Machine

/-- A list reads what was written at a key, and elsewhere what it read before. -/
theorem mapGet_mapSet {α : Type} (m : List (Nat × α)) (k j : Nat) (v d : α) :
    mapGet (mapSet m k v) j d = if k = j then v else mapGet m j d := by
  unfold mapGet
  rw [mapFind_mapSet]
  split <;> rfl

/-- The state of a pair keeps a view where the pair is known to. -/
theorem keeps_of_pair {σ α γ : Type} {view : σ → γ} {x : σ × α} {s t : σ} {y : α} (h : x = (t, y)) (hx : view x.1 = view s) :
    view t = view s := by
  subst h; exact hx

/-! ### The mills' progress -/

/-- How far the mill phase of a step has come, for the descriptors of which step, and the draw counters. -/
structure MillView where
  mills     : List (Nat × (Nat × Nat))
  prologues : List Nat
  number    : BitVec 48
  upd       : List (BitVec 512)
  draws     : List (Nat × BitVec 64)

/-- The mills' progress as a state holds it. -/
def millView (s : State) : MillView := ⟨s.step.mills, s.step.prologues, s.step.number, s.step.upd, s.job.draws⟩

/-- The view with a mill's place moved on. -/
def MillView.place (v : MillView) (mill i pos : Nat) : MillView := { v with mills := mapSet v.mills mill (i, pos) }

/-- The view with k draws taken. -/
def MillView.draw (v : MillView) (unit cls k : Nat) : MillView :=
  { v with draws := sparseSet 0 v.draws (4 * unit + cls) (BitVec.ofNat 64 ((mapGet v.draws (4 * unit + cls) 0).toNat + k)) }

/-- The view with the prologue of descriptor i done. -/
def MillView.prologue (v : MillView) (i : Nat) : MillView := { v with prologues := v.prologues ++ [i] }

theorem millView_setPlace (s : State) (mill i pos : Nat) : millView (setPlace s mill i pos) = (millView s).place mill i pos := rfl

theorem millView_advanceDraws (s : State) (unit cls k : Nat) :
    millView (advanceDraws s unit cls k) = (millView s).draw unit cls k := rfl

theorem millView_withPrologue (s : State) (i : Nat) :
    millView { s with step := { s.step with prologues := s.step.prologues ++ [i] } } = (millView s).prologue i := rfl

theorem millView_withBadShards (s : State) (l : List Nat) : millView { s with step := { s.step with badShards := l } } = millView s := rfl

theorem millView_withRows (s : State) (l : List (Nat × (Option Nat × Option Nat))) :
    millView { s with step := { s.step with rows := l } } = millView s := rfl

theorem millView_setTensor (s : State) (h : Nat) (t : Tensor) : millView (setTensor s h t) = millView s := rfl

theorem millView_countEvents (s : State) (cls unit k : Nat) : millView (countEvents s cls unit k) = millView s := rfl

theorem millView_of_behindMemory {r s t : State} (h : behindMemory r s = behindMemory r t) : millView s = millView t :=
  view_of_mask h millView fun _ => rfl

/-! ### Reads, faults and statistics (R130, R225, R285) -/

theorem millView_raise (s : State) (e : EventArgs) (h : e.nmi = false) : millView (raise s e) = millView s :=
  millView_of_behindMemory (behindMemory_raise s s e h)

theorem millView_trace (s : State) (a b c d e : Nat) : millView (trace s a b c d e) = millView s :=
  millView_of_behindMemory (behindMemory_trace s s a b c d e)

theorem millView_millLoad (s : State) (a n : Nat) : millView (millLoad s a n).1 = millView s :=
  millView_of_behindMemory (behindMemory_loadWords s s (n + 1) a n)

theorem millView_raiseFault (s : State) (a : FaultArgs) (r : BitVec 256) : millView (raiseFault s a r) = millView s := by
  unfold raiseFault
  exact keeps_else ((millView_raise _ _ rfl).trans (keeps_ite rfl rfl))

/-- A fault changes the step's log and marks, and the host interface. -/
theorem millView_logFault (s : State) (a : FaultArgs) (prev next : Bool) : millView (logFault s a prev next) = millView s := by
  unfold logFault; dsimp only
  split
  · rfl
  · rfl
  · rfl
  · split
    · rfl
    · unfold logFault.add
      exact (millView_raiseFault _ _ _).trans ((millView_trace _ _ _ _ _ _).trans (keeps_ite rfl rfl))

theorem millView_millFault (s : State) (kind first last addr : Nat) (join : Bool) :
    millView (millFault s kind first last addr join) = millView s := millView_logFault s _ join false

theorem millView_addSat (s : State) (l k : Nat) : millView (addSat s l k) = millView s := by
  unfold addSat
  exact keeps_else rfl

theorem millView_momentSat (s : State) (h k : Nat) : millView (momentSat s h k) = millView s := by
  unfold momentSat
  exact keeps_else (foldl_keeps millView _ (fun s l => keeps_then (millView_addSat s _ k)) _ s)

theorem millView_holdRecord (s : State) (tensor k : Nat) : millView (holdRecord s tensor k) = millView s := by
  unfold holdRecord
  exact keeps_else (millView_raise _ _ rfl)

theorem millView_rowUpdate (s : State) (d : BitVec 512) (c : MillConst) (rec_ : List Byte) (e unit : Nat) :
    millView (rowUpdate s d c rec_ e unit).1 = millView s := by
  unfold rowUpdate
  extract_lets stale last rrow t dt unknown counted
  have hcounted : millView counted = millView s := keeps_then (millView_of_behindMemory (behindMemory_bump s s 0xEC7))
  split
  next t rs bad hload => exact (keeps_of_pair hload (millView_millLoad counted _ _)).trans hcounted

/-! ### A record written (R273, R356, R363) -/

theorem behindMemory_lookupPage (r s : State) (a : Nat) : behindMemory r (lookupPage s a).1 = behindMemory r s := by
  unfold lookupPage
  split
  · rfl
  · exact behindMemory_lookupEntry r s _

theorem behindMemory_readRow (r s : State) (e a n : Nat) : behindMemory r (readRow s e a n).1 = behindMemory r s :=
  foldl_keeps (fun acc : State × List Nat => behindMemory r acc.1) _ (fun acc _ => behindMemory_readMem r acc.1 _ 0) _ (s, [])

theorem behindMemory_copyRowPart (r s : State) (p : Nat × Nat) : behindMemory r (copyRowPart s p) = behindMemory r s := by
  unfold copyRowPart
  split
  next a len =>
  split
  next s1 e hlook =>
  have hlookup : behindMemory r s1 = behindMemory r s := keeps_of_pair hlook (behindMemory_lookupPage r s a)
  extract_lets v gen rows
  rw [← hlookup]
  refine keeps_else (keeps_ite ?_ (behindMemory_leaveUncopied r s1 v gen))
  split
  next s2 bad hread =>
  extract_lets im keep c
  have hrow : behindMemory r s2 = behindMemory r s1 := keeps_of_pair hread (behindMemory_readRow r s1 e a (len / 16))
  exact (behindMemory_trace r _ _ _ _ _ _).trans ((behindMemory_withSealer r s2 _).trans hrow)

theorem behindMemory_millCopyRow (r s : State) (a len : Nat) : behindMemory r (millCopyRow s a len) = behindMemory r s := by
  unfold millCopyRow
  refine keeps_else ((behindMemory_withSealer r _ _).trans ?_)
  exact foldl_keeps (behindMemory r) _ (behindMemory_copyRowPart r) _ s

theorem behindMemory_millStore (r s : State) (a : Nat) (bs : List Byte) : behindMemory r (millStore s a bs) = behindMemory r s := by
  unfold millStore
  refine keeps_ite ?_ (behindMemory_storeWords r s _ _ _ _ _)
  exact foldl_keeps (behindMemory r) _ (fun s i => behindMemory_writeWord r s _ _ _ _) _ s

theorem millView_storeSpan (s : State) (a : Nat) (bs : List Byte) (poison : Bool) :
    millView (storeSpan s a bs poison).1 = millView s :=
  millView_of_behindMemory (behindMemory_storeWords s s _ _ _ _ _)

theorem millView_millCopyRow (s : State) (a len : Nat) : millView (millCopyRow s a len) = millView s :=
  millView_of_behindMemory (behindMemory_millCopyRow s s a len)

theorem millView_millStore (s : State) (a : Nat) (bs : List Byte) : millView (millStore s a bs) = millView s :=
  millView_of_behindMemory (behindMemory_millStore s s a bs)

theorem millView_load_ite (c : Prop) [Decidable c] (s : State) (a n : Nat) :
    millView (if c then millLoad s a n else (s, [], [])).1 = millView s :=
  keeps_ite (view := fun x : State × List Byte × List Nat => millView x.1) (s := (s, [], [])) (millView_millLoad s a n) rfl

/-! ### The end of the phase (R267, R275) -/

theorem millView_countUpdates (s : State) : millView (countUpdates s) = millView s :=
  view_of_mask (behindTensors_countUpdates s s) millView fun _ => rfl

theorem millView_endMillPhase (s : State) : millView (endMillPhase s) = millView s := by
  unfold endMillPhase
  exact keeps_then (keeps_then (view := fun x : State => millView { x with step := { x.step with phase := 2 } }) (s := s)
    (millView_countUpdates s))

/-! ### The prologues (R271, R282) -/

theorem millView_readTouch (d : BitVec 512) (s : State) (e : Nat) : millView (readTouch d s e) = millView s := by
  unfold readTouch
  extract_lets a
  split
  next t bs bad hload =>
  have hread : millView t = millView s := keeps_of_pair hload (millView_millLoad s a 4)
  split
  · exact (millView_millFault _ _ _ _ _ _).trans hread
  · exact (keeps_then (millView_millFault _ _ _ _ _ _)).trans hread

theorem millView_embeddingPrologue (s : State) (i : Nat) (d : BitVec 512) :
    millView (embeddingPrologue s i d) = (millView s).prologue i := by
  unfold embeddingPrologue
  extract_lets st s1 s2 base
  have htouched : millView s2 = (millView s).prologue i :=
    (foldl_keeps millView _ (millView_readTouch d) _ s1).trans (millView_withPrologue s i)
  split
  next t bs bad hload =>
  have hread : millView t = millView s2 := keeps_of_pair hload (millView_millLoad s2 _ _)
  rw [← htouched, ← hread]
  split
  · rfl
  · exact millView_millFault _ _ _ _ _ _

theorem millView_matrixPrologue (s : State) (i : Nat) (d : BitVec 512) :
    millView (matrixPrologue s i d) =
      ((millView s).draw (0xA000 + prologueMill d) 0 (udCols d + udRows d + 1)).prologue i := by
  unfold matrixPrologue
  extract_lets mill unit nc nr base
  split
  next cs rs cO rO hparts =>
  split
  next s1 q b0 hscale =>
  split
  next s2 csum b1 hcsum =>
  split
  next s3 rsum b2 hrsum =>
  split
  next s4 c b3 hcol =>
  split
  next s5 r b4 hrow =>
  extract_lets bad k u cNew rNew m rbar drawn st noted counted cols rows stBad failed
  have hread : millView s5 = millView s := calc
    millView s5 = millView s4 := keeps_of_pair hrow (millView_millLoad s4 _ _)
    _ = millView s3 := keeps_of_pair hcol (millView_millLoad s3 _ _)
    _ = millView s2 := keeps_of_pair hrsum (millView_millLoad s2 _ _)
    _ = millView s1 := keeps_of_pair hcsum (millView_millLoad s1 _ _)
    _ = millView s := keeps_of_pair hscale (millView_millLoad s _ _)
  have hnoted : millView noted = ((millView s).draw unit 0 (nc + nr + 1)).prologue i := calc
    millView noted = (millView drawn).prologue i := millView_withPrologue drawn i
    _ = ((millView s5).draw unit 0 _).prologue i := congrArg (MillView.prologue · i) (millView_advanceDraws s5 unit 0 _)
    _ = ((millView s).draw unit 0 _).prologue i := by rw [hread]
  have hrows : millView rows = millView noted := calc
    millView rows = millView cols := millView_storeSpan cols _ _ _
    _ = millView counted := millView_storeSpan counted _ _ _
    _ = millView noted := millView_momentSat noted _ _
  rw [← hnoted]
  clear_value bad
  split
  · split
    · exact (millView_setTensor rows _ _).trans hrows
    · exact hrows
  · exact (millView_millFault failed _ _ _ _ _).trans (millView_withBadShards noted _)

/-! ### A record, and a row of the age sweep (R269, R272, R281) -/

theorem millView_millRecordOp (s : State) (mill i k e : Nat) : millView (millRecordOp s mill i k e) =
    ((millView s).draw (0xA000 + mill) 0 (recordDraws (updAt s i) k)).place mill i (positionAfter (updAt s i) k e) := by
  unfold millRecordOp
  extract_lets d kind unit n cols row first c gw live grow gIndex e0 key wordsOf heldE
  split
  next s1 rec1 b0 hrecord =>
  split
  next s2 g b1 hgrad =>
  split
  next s3 dt rrow rsat hrow =>
  extract_lets st s4 v bexp
  split
  next cs rs cO rO hparts =>
  split
  next s5 cv b2 hcol =>
  split
  next s6 rv b3 hstat =>
  extract_lets u gs sc rbar elem es drawn placed bad pc ps m1 vs copied
  have hread : millView s6 = millView s := calc
    millView s6 = millView s5 := keeps_of_pair hstat (millView_load_ite _ s5 _ _)
    _ = millView s4 := keeps_of_pair hcol (millView_load_ite _ s4 _ _)
    _ = millView s3 := keeps_then (millView_withRows s3 _)
    _ = millView s2 := by
      refine keeps_of_pair hrow ?_
      split
      · exact millView_rowUpdate s2 d c rec1 e unit
      · rfl
    _ = millView s1 := keeps_of_pair hgrad (millView_millLoad s1 _ _)
    _ = millView s := keeps_of_pair hrecord (millView_millLoad s _ _)
  have hplaced : millView placed = ((millView s).draw unit 0 n).place mill i (positionAfter d k e) := calc
    millView placed = (millView drawn).place mill i _ := millView_setPlace drawn mill i _
    _ = ((millView s6).draw unit 0 n).place mill i _ := congrArg (MillView.place · mill i _) (millView_advanceDraws s6 unit 0 n)
    _ = ((millView s).draw unit 0 n).place mill i _ := by rw [hread]
  rw [← hplaced]
  clear_value bad
  split
  · exact foldl_keeps millView _ (fun s x => millView_millFault s _ _ _ _ _) _ placed
  · refine keeps_else (keeps_ite (millView_millFault placed _ _ _ _ _) (keeps_ite (millView_holdRecord placed _ k) ?_))
    split
    next be qs sats hblock =>
    extract_lets sats
    calc millView (millStore (countEvents (momentSat copied (udTensor d) sats) 11 mill 32) (recAddr d k) (bytesOfNat _ _))
      _ = millView (momentSat copied (udTensor d) _) := (millView_millStore _ _ _).trans (millView_countEvents _ 11 mill 32)
      _ = millView copied := millView_momentSat copied _ _
      _ = millView placed := keeps_then (millView_millCopyRow placed _ _)

theorem millView_sweepRow (s : State) (mill t r : Nat) :
    ∃ pos, millView (sweepRow s mill t r) = (millView s).place mill s.step.upd.length pos := by
  unfold sweepRow
  extract_lets a d
  split
  next s1 rec1 bad hload =>
  extract_lets place placed v age copied
  have hread : millView s1 = millView s := keeps_of_pair hload (millView_millLoad s a 128)
  have hupd : s1.step.upd = s.step.upd := congrArg MillView.upd hread
  refine ⟨if place.1 = s1.step.upd.length then place.2 + 1 else 1, ?_⟩
  rw [← hread, ← hupd]
  split
  · exact foldl_keeps millView _ (fun s b => millView_millFault s _ _ _ _ _) _ placed
  · exact keeps_else ((millView_millStore copied _ _).trans (millView_millCopyRow placed _ _))

/-! ### The rows -/

section
variable {s : State}

theorem execMillPrologue_due {g : Fin 16} {i : Nat} (hphase : s.step.phase = 1) (hstop : stopped s = false)
    (hwork : millWork s (4 * g.val) = .prologue i) :
    exec (.millPrologue g) s = .next (endMillPhase
      (if udKind (updAt s i) = 0 then matrixPrologue s i (updAt s i) else embeddingPrologue s i (updAt s i))) := by
  show execMillPrologue g s = _
  simp [execMillPrologue, hphase, hstop, hwork]

theorem execMillRecord_record {m : Fin 64} {i k e : Nat} (hphase : s.step.phase = 1) (hstop : stopped s = false)
    (hwork : millWork s m.val = .record i k e) :
    exec (.millRecord m) s = .next (endMillPhase (millRecordOp s m.val i k e)) := by
  show execMillRecord m s = _
  simp [execMillRecord, hphase, hstop, hwork]

theorem execMillRecord_sweep {m : Fin 64} {h r : Nat} (hphase : s.step.phase = 1) (hstop : stopped s = false)
    (hwork : millWork s m.val = .sweep h r) :
    exec (.millRecord m) s = .next (endMillPhase (sweepRow s m.val h r)) := by
  show execMillRecord m s = _
  simp [execMillRecord, hphase, hstop, hwork]

end

/-- The prologues done, the mills' places and the step's number stand as after the prologue of descriptor i, of either kind. -/
theorem millPrologue_done (s : State) (i : Nat) (d : BitVec 512) :
    ∃ draws, millView (if udKind d = 0 then matrixPrologue s i d else embeddingPrologue s i d) =
      { (millView s).prologue i with draws := draws } := by
  split
  · exact ⟨_, millView_matrixPrologue s i d⟩
  · exact ⟨_, millView_embeddingPrologue s i d⟩

/-- Settles O53. Each row does one piece of work and then looks whether the phase ends, which keeps the view
(`millView_endMillPhase`); the piece is a prologue done (`millPrologue_done`), a place moved on with the record's draws taken
(`millView_millRecordOp`), or a row of the sweep (`millView_sweepRow`). -/
theorem millsWork : Obligations.MillsWork := by
  intro g m s hphase hstop
  refine ⟨fun i hwork => ⟨_, execMillPrologue_due hphase hstop hwork, ?_⟩,
    fun i k e hwork => ⟨_, execMillRecord_record hphase hstop hwork, ?_⟩,
    fun h r hwork => ⟨_, execMillRecord_sweep hphase hstop hwork, ?_⟩⟩
  · obtain ⟨draws, hdone⟩ := millPrologue_done s i (updAt s i)
    have hview := (millView_endMillPhase _).trans hdone
    exact ⟨congrArg MillView.prologues hview, congrArg MillView.mills hview, congrArg MillView.number hview⟩
  · have hview := (millView_endMillPhase _).trans (millView_millRecordOp s m.val i k e)
    generalize endMillPhase _ = t at hview ⊢
    have hmills : t.step.mills = mapSet s.step.mills m.val (i, positionAfter (updAt s i) k e) := congrArg MillView.mills hview
    have hdraws : t.job.draws = sparseSet 0 s.job.draws (4 * (0xA000 + m.val) + 0)
        (BitVec.ofNat 64 (drawCount s (0xA000 + m.val) 0 + recordDraws (updAt s i) k)) := congrArg MillView.draws hview
    refine ⟨?_, fun n hn => ?_, ?_, congrArg MillView.prologues hview⟩
    · rw [hmills, mapGet_mapSet, if_pos rfl]
    · rw [hmills, mapGet_mapSet, if_neg (Ne.symm hn)]
    · rw [drawCount, hdraws, mapGet_sparseSet, if_pos rfl, BitVec.toNat_ofNat]
  · obtain ⟨pos, hswept⟩ := millView_sweepRow s m.val h r
    have hview := (millView_endMillPhase _).trans hswept
    generalize endMillPhase _ = t at hview ⊢
    have hmills : t.step.mills = mapSet s.step.mills m.val (s.step.upd.length, pos) := congrArg MillView.mills hview
    refine ⟨?_, congrArg MillView.draws hview, congrArg MillView.prologues hview⟩
    rw [hmills, mapGet_mapSet, if_pos rfl]

end Sys2Proof.Machine
end
